-- ==== Sys2Proof/Word.lean ====
section
/-! DEFINITION. The two bit-vector widths of the block: a byte (a sample, an output byte, a packed template
byte: R51) and the 16-bit command word (R70). -/

namespace Sys2Proof

/-- One byte: every datum the block stores or moves (R51). -/
abbrev Byte := BitVec 8

/-- One command word, delivered as one transaction (R70). -/
abbrev Word := BitVec 16

end Sys2Proof
end

