-- ==== Sys2Proof/Config.lean ====
section
/-! DEFINITION. The build-time parameters of the block (R7), as plain data, and the two test configurations of
95_test_vectors.md section 0. What is computed from a configuration is in Machine/Parameters.lean and
Machine/Templates.lean. -/

namespace Sys2Proof

/-- The number of headers NHDR: index 0 the main header, 1..6 the field headers (R7, R130). -/
abbrev nHdr : Nat := 7

/-- A header index, `0..6` (R24). -/
abbrev HeaderIndex := Fin nHdr

/-- One header's parameters (R7): its packed bytes `HDR[k][0..NB[k]-1]`, whose number is `NB[k]`, and its
expected offset `OFF[k]`.  `OFF[k]` is an `Int` so that the legality check of R292 condition 6 says something. -/
structure Header where
  bytes : List Byte
  off   : Int
  deriving DecidableEq, Repr

/-- The OPEN parameters of R7: ring capacity `B`, samples per bit `SPB`, and the headers.  Fixed for the life of
the block (R20).  Whether they are legal is checked at reset (R292), so an illegal configuration is a value too. -/
structure Config where
  ringSize : Nat
  spb      : Nat
  headers  : List Header
  deriving DecidableEq, Repr

/-- Test configuration TC-A of 95_test_vectors.md section 0; `State.reset` carries it.
DESIGN CHOICE (log entry 2), unsafe: the spec leaves the parameters open (D27). -/
def Config.tcA : Config where
  ringSize := 128
  spb := 4
  headers :=
    [⟨[0x2D], 279⟩, ⟨[0x1E], 39⟩, ⟨[0xB1], 79⟩, ⟨[0x4B], 119⟩, ⟨[0x69], 159⟩, ⟨[0x87], 199⟩, ⟨[0xD2], 239⟩]

/-- Test configuration TC-B of 95_test_vectors.md section 0. -/
def Config.tcB : Config where
  ringSize := 128
  spb := 4
  headers :=
    [⟨[0x2D], 0⟩, ⟨[0x1E], 1000⟩, ⟨[0xB1], 1000⟩, ⟨[0x4B], 1000⟩, ⟨[0x69], 1000⟩, ⟨[0x87], 1000⟩, ⟨[0xD2], 1000⟩]

end Sys2Proof
end

