-- ==== Sys2Proof/Syntax.lean ====
section
/-! DEFINITION. The commands of the block, one constructor per row of spec/opcode_table.json (R72, R77). -/

namespace Sys2Proof

/-- A decoded command word (R77). -/
inductive Instr where
  /-- `PUSH x`: one sample, any value `0..255` (R73, R233). -/
  | push (x : Byte)
  /-- `SETMODE ovs`: write MODE.OVS (R74, R234). -/
  | setmode (ovs : Bool)
  /-- `EOS`: end of stream (R75, R235). -/
  | eos
  /-- Every other word; it carries the whole word (R76, R236). -/
  | illegal (w : Word)
  deriving DecidableEq, Repr

end Sys2Proof
end

