-- ==== Sys2Proof/WellFormed.lean ====
section
/-! DEFINITION. The well-formedness of a command: the operand checks that the types of Syntax.lean do not make.
Only ILLEGAL has one, that its word matches no other row of the opcode table (R76). -/

namespace Sys2Proof

/-- The word matches PUSH's row: match 0x0100, mask 0xFF00 (R73). -/
def matchesPush (w : Word) : Bool := w &&& 0xFF00 == 0x0100

/-- The word matches SETMODE's row: match 0x0200, mask 0xFFFE (R74). -/
def matchesSetmode (w : Word) : Bool := w &&& 0xFFFE == 0x0200

/-- The word matches EOS's row: match 0x0300, mask 0xFFFF (R75). -/
def matchesEos (w : Word) : Bool := w &&& 0xFFFF == 0x0300

/-- A command is well formed when some word decodes to it: ILLEGAL carries a word that matches none of the three
other rows (R76). -/
def Instr.wf (i : Instr) : Bool :=
  match i with
  | .push _ => true
  | .setmode _ => true
  | .eos => true
  | .illegal w => !matchesPush w && !matchesSetmode w && !matchesEos w

end Sys2Proof
end

