-- ==== Sys2Proof/Decode.lean ====
section
/-! DEFINITION. Decoding, total on 16-bit words (R77), and the encoder, written from the same encodings
(R73 to R76). -/

namespace Sys2Proof

/-- The opcode field `OP = word[15:8]` (R70). -/
def opField (w : Word) : Byte := w.extractLsb' 8 8

/-- The operand field `D = word[7:0]`, zero-extended by its readers (R70, R71). -/
def operandField (w : Word) : Byte := w.extractLsb' 0 8

/-- The decode function of R77. -/
def decode (w : Word) : Instr :=
  if opField w = 0x01 then .push (operandField w)
  else if opField w = 0x02 ∧ (operandField w).extractLsb' 1 7 = 0 then .setmode ((operandField w).getLsbD 0)
  else if opField w = 0x03 ∧ operandField w = 0x00 then .eos
  else .illegal w

/-- The word of a command, from R73 (PUSH), R74 (SETMODE), R75 (EOS) and R76 (the raw word of an illegal one). -/
def encode (i : Instr) : Word :=
  match i with
  | .push x => 0x0100 ||| x.zeroExtend 16
  | .setmode ovs => if ovs then 0x0201 else 0x0200
  | .eos => 0x0300
  | .illegal w => w

/-- What the decoder reads from a command whose low `nbits` bits are those of `w`.  Every command is one 16-bit
word (R70), so a longer one is none. -/
def decodeTableWord (nbits w : Nat) : Option Instr :=
  if nbits ≤ 16 then some (decode (BitVec.ofNat 16 (w % 2 ^ nbits))) else none

end Sys2Proof
end

