-- ==== Sys2Proof/Machine/Parameters.lean ====
section
/-! DEFINITION. What is computed from the parameters without the templates' contents: the lengths and offsets
(R8), the fixed constants of R7 and the legality of a configuration (R292). -/

namespace Sys2Proof

/-- `POS_MAX = 2^32 - 1`, the saturation value of `pos` (R7, R23). -/
def posMax : Nat := 2 ^ 32 - 1

/-- `THRES = 4/5`, the lock threshold, exact (R152). -/
def thres : ℚ := 4 / 5

/-- `SD_FLOOR = 2^-16`, the standard-deviation floor (R7, R104). -/
def sdFloor : ℚ := 1 / 2 ^ 16

/-- Header `k`; the empty header where the configuration has none at `k`, which R292 condition 3 makes illegal. -/
def Config.header (c : Config) (k : HeaderIndex) : Header := c.headers.getD k.val ⟨[], 0⟩

/-- `NB[k]`, the byte length of header `k` (R7). -/
def Config.nb (c : Config) (k : HeaderIndex) : Nat := (c.header k).bytes.length

/-- `OFF[k]`, the expected stream offset of header `k` (R7). -/
def Config.off (c : Config) (k : HeaderIndex) : Int := (c.header k).off

/-- `L[k] = 8 * NB[k] * SPB`, the length of header `k` in samples (R8). -/
def Config.len (c : Config) (k : HeaderIndex) : Nat := 8 * c.nb k * c.spb

/-- `LMAX`, the greatest `L[k]` (R8). -/
def Config.lmax (c : Config) : Nat := (List.finRange nHdr).foldl (fun m k => max m (c.len k)) 0

/-- `MASK = B - 1` (R8). -/
def Config.mask (c : Config) : Nat := c.ringSize - 1

/-- R292 condition 1: `B` is a power of two and `B >= 2`. -/
abbrev Config.ringOk (c : Config) : Prop := 2 ≤ c.ringSize ∧ 2 ^ c.ringSize.log2 = c.ringSize

/-- R292 condition 3: there are 7 headers, each of at least one byte. -/
abbrev Config.headersOk (c : Config) : Prop := c.headers.length = nHdr ∧ ∀ k, 1 ≤ c.nb k

/-- R292 condition 4: `B > L[k] + SPB` for every k. -/
abbrev Config.capacityOk (c : Config) : Prop := ∀ k, c.len k + c.spb < c.ringSize

/-- R292 condition 6: every `OFF[k] >= 0`, and `OFF[k] + SPB < POS_MAX` for the field headers. -/
abbrev Config.offsetsOk (c : Config) : Prop :=
  (∀ k, 0 ≤ c.off k) ∧ ∀ k, k ≠ 0 → c.off k + c.spb < posMax

/-- R292: the legality of a configuration, its six conditions in order. -/
abbrev Config.Legal (c : Config) : Prop :=
  c.ringOk ∧ 1 ≤ c.spb ∧ c.headersOk ∧ c.capacityOk ∧ 2 * c.len 0 < c.ringSize ∧ c.offsetsOk

/-- A ring index: `i mod B`, the representative in `0..B-1` also for negative `i` (R9, R52). -/
def ringIdx (ringSize : Nat) (i : Int) : Nat := (i % (ringSize : Int)).toNat

/-- `sgnB(r)`: `r mod B` mapped to `(-B/2, B/2]` (R101). -/
def sgnB (ringSize : Nat) (r : Int) : Int :=
  let u := r % (ringSize : Int)
  if 2 * u > (ringSize : Int) then u - ringSize else u

end Sys2Proof
end

