-- ==== Sys2Proof/Machine/State.lean ====
section
/-! DEFINITION. The state of the block (10_state.md, R20), as plain data, its fault and refusal reasons, and the
state after reset (R290, R291, R293). -/

namespace Sys2Proof.Machine

/-- The ring's cells that differ from the pre-fill 128, by rising index (R21); Machine/Memory.lean reads and
writes it, and says when it is canonical. -/
abbrev Memory := List Host.Cell

/-- The carrier polarity, +1 or -1 (R25). -/
inductive Polarity where
  | plus
  | minus
  deriving DecidableEq, Repr

/-- The control state (R33). -/
inductive Ctl where
  /-- After a reset with a legal configuration, before the first PUSH. -/
  | idle
  /-- After the first PUSH. -/
  | run
  /-- After EOS: terminal, no command is accepted. -/
  | done
  /-- After an error: terminal until reset, no command is accepted. -/
  | fault
  deriving DecidableEq, Repr

/-- One thing the host does at the block's input (R277): it offers a command word (R70) or asserts reset (R290).
DESIGN CHOICE (log entries 3 and 4), safe. -/
inductive HostEvent where
  | command (w : Word)
  | reset
  deriving DecidableEq, Repr

/-- The state of the block (R20), with its configuration and the host's coming inputs. -/
@[ext]
structure State where
  /-- The configuration: fixed for the life of the block, written by no step (R20). -/
  cfg      : Config
  /-- The sample ring (R21). -/
  buf      : Memory
  /-- The write head (R22). -/
  p        : Nat
  /-- The stream-position counter, saturating at POS_MAX (R23). -/
  pos      : Nat
  /-- The active header index (R24). -/
  hdr      : HeaderIndex
  /-- The carrier polarity (R25). -/
  polarity : Polarity
  /-- The best correlation of the current detection window, as its square (R26, R157). -/
  maxCorr  : ℚ
  /-- The ring position of the best match (R28). -/
  newStart : Nat
  /-- The bit-clock origin: the last sample of the next bit period to emit (R29). -/
  bitStart : Nat
  /-- The MODE register's one bit, OVS (R31). -/
  ovs      : Bool
  /-- The control state (R33). -/
  ctl      : Ctl
  /-- The error code (R34). -/
  err      : BitVec 8
  /-- The output stream, oldest byte first (R35). -/
  out      : List Byte
  /-- What the host will do at the input, in order (log entry 3): the model's own field. -/
  input    : List HostEvent
  deriving DecidableEq, Repr

/-- Why the block takes no step.  Each is a stuck state of the spec, not an error of the model. -/
inductive Fault where
  /-- Raised by `accept` in IDLE or RUN when the host offers nothing: the block waits (R232).  Safe. -/
  | waitingForCommand
  /-- Raised in DONE: the run has ended, no command is accepted, the word stays with the host (R230, R276).  Safe. -/
  | streamEnded
  /-- Raised in FAULT, with the code in `err`: no command is accepted until reset (R230, R267).  Safe. -/
  | errorState (code : BitVec 8)
  deriving DecidableEq, Repr

/-- Why the model gives a command no meaning. -/
inductive Refusal where
  /-- Raised by `exec` alone, in an arm that has no meaning yet; no arm uses it.  Safe. -/
  | notModelled (mnemonic : String)
  deriving DecidableEq, Repr

/-- ERR_NONE (R261). -/
def errNone : BitVec 8 := 0
/-- ERR_CONFIG: the configuration breaks R292 (R261, R263). -/
def errConfig : BitVec 8 := 1
/-- ERR_ILLEGAL_CMD: an illegal command word (R261, R264). -/
def errIllegalCmd : BitVec 8 := 2
/-- ERR_MODE_LATE: SETMODE after the first PUSH (R261, R265). -/
def errModeLate : BitVec 8 := 3

/-- The state right after reset of a block built with configuration `c` (R290, R291, R293). -/
def State.resetWith (c : Config) : State where
  cfg := c
  buf := []
  p := 0
  pos := 0
  hdr := 0
  polarity := .plus
  maxCorr := 0
  newStart := 0
  bitStart := ringIdx c.ringSize (c.len 0 - 1)
  ovs := false
  ctl := if c.Legal then .idle else .fault
  err := if c.Legal then errNone else errConfig
  out := []
  input := []

/-- The state right after reset, for the spec's test configuration TC-A.
DESIGN CHOICE (log entry 2), unsafe: the spec leaves the configuration open (D27). -/
def State.reset : State := State.resetWith Config.tcA

end Sys2Proof.Machine
end

