-- ==== Sys2Proof/Machine/Flags.lean ====
section
/-! DEFINITION. The flags (polarity, the tracker's phase) and the status encodings (R25, R27, R33, R34, R81). -/

namespace Sys2Proof.Machine

/-- The polarity as the number +1 or -1 (R25). -/
def Polarity.sign (v : Polarity) : Int :=
  match v with
  | .plus => 1
  | .minus => -1

/-- The polarity's one-bit encoding: 0 means +1, 1 means -1 (R25, R81). -/
def Polarity.bit (v : Polarity) : BitVec 1 :=
  match v with
  | .plus => 0
  | .minus => 1

/-- The polarity that a signed score's sign fixes: positive +1, negative -1, zero leaves it (R179). -/
def Polarity.fix (old : Polarity) (sign : Int) : Polarity :=
  if sign > 0 then .plus else if sign < 0 then .minus else old

/-- The code of a control state in 2 bits (R33, R81). -/
def Ctl.code (c : Ctl) : BitVec 2 :=
  match c with
  | .idle => 0
  | .run => 1
  | .done => 2
  | .fault => 3

/-- The phase is tracking exactly when `max_corr > 0`, else searching (R27). -/
abbrev State.tracking (s : State) : Prop := 0 < s.maxCorr

/-- The status outputs `ctl` and `err`, the only state the host can sample besides the output stream (R32). -/
def State.status (s : State) : BitVec 2 × BitVec 8 := (s.ctl.code, s.err)

end Sys2Proof.Machine
end

