-- ==== Sys2Proof/Machine/Memory.lean ====
section
/-! DEFINITION. The ring's storage: one byte read and one byte written by index, in the canonical form (indices
strictly rising, no cell that holds the pre-fill). -/

namespace Sys2Proof.Machine

/-- What a cell that nothing has written holds: 128, the carrier midpoint (R21). -/
def prefill : Byte := 128

/-- The byte at index `i`. -/
def Memory.read (m : Memory) (i : Nat) : Byte :=
  match m with
  | [] => prefill
  | (a, b) :: rest => if i = a then b else Memory.read rest i

/-- The cells with index `i` holding `v`; writing the pre-fill removes the entry. -/
def Memory.write (m : Memory) (i : Nat) (v : Byte) : Memory :=
  match m with
  | [] => if v = prefill then [] else [(i, v)]
  | (a, b) :: rest =>
    if i < a then (if v = prefill then (a, b) :: rest else (i, v) :: (a, b) :: rest)
    else if i = a then (if v = prefill then rest else (i, v) :: rest)
    else (a, b) :: Memory.write rest i v

/-- The canonical form: indices strictly rising, no cell holding the pre-fill. -/
abbrev Memory.wf (m : Memory) : Prop :=
  m.Pairwise (fun x y => x.1 < y.1) ∧ ∀ cell ∈ m, cell.2 ≠ prefill

end Sys2Proof.Machine
end

