-- ==== Sys2Proof/Machine/Operands.lean ====
section
/-! DEFINITION. The operand forms: a ring cell by index, a window `(start, n)`, the signed distance from the head
sample, and the sample operand of PUSH. -/

namespace Sys2Proof.Machine

/-- A sample or packed byte as the integer it stands for, `zext` (R71, R78). -/
def sampleVal (x : Byte) : Int := x.toNat

/-- `i mod B` in this block's ring (R52). -/
def State.idx (s : State) (i : Int) : Nat := ringIdx s.cfg.ringSize i

/-- `buf[i]`: the ring at index `i mod B` (R10). -/
def State.ringRead (s : State) (i : Int) : Byte := s.buf.read (s.idx i)

/-- `win(start, n)`: the cells `start, start+1, ..., start+n-1` mod B, in that order (R102). -/
def State.win (s : State) (start : Int) (n : Nat) : List Byte :=
  (List.range n).map fun i : Nat => s.ringRead (start + i)

/-- `dist(x) = sgnB(p - 1 - x)`: the signed distance from the head sample to ring index `x` (R108). -/
def State.dist (s : State) (x : Int) : Int := sgnB s.cfg.ringSize ((s.p : Int) - 1 - x)

end Sys2Proof.Machine
end

