-- ==== Sys2Proof/Machine/Emitter.lean ====
section
/-! DEFINITION. The Resampler/Emitter (44_emitter.md): the due test, the averaged and polarity-corrected byte, the
output unit, and their composition EMIT_STEP (R216). -/

namespace Sys2Proof.Machine

/-- The due condition: `dist(bit_start) >= 0` (R211). -/
abbrev State.due (s : State) : Prop := 0 ≤ s.dist s.bitStart

/-- The cells of the bit period that ends at `bit_start`: `bit_start - j` for `j = 0..SPB-1` (R212). -/
def State.periodCells (s : State) : List Byte :=
  (List.range s.cfg.spb).map fun j : Nat => s.ringRead ((s.bitStart : Int) - j)

/-- The average of `n` samples with sum `sum`, rounded half up: `(2*sum + n) div (2*n)` (R212). -/
def roundedAvg (sum n : Nat) : Nat := (2 * sum + n) / (2 * n)

/-- The average of the bit period (R212). -/
def State.periodAvg (s : State) : Nat := roundedAvg (s.periodCells.map BitVec.toNat).sum s.cfg.spb

/-- The byte of the output unit: `avg`, or `255 - avg` under polarity -1 (R213). -/
def State.unitByte (s : State) : Byte :=
  match s.polarity with
  | .plus => BitVec.ofNat 8 s.periodAvg
  | .minus => BitVec.ofNat 8 (255 - s.periodAvg)

/-- `OSPB`: 1, or `SPB` in oversampling mode (R7, R31). -/
def State.ospb (s : State) : Nat := if s.ovs then s.cfg.spb else 1

/-- Emit one unit and advance the bit clock by one period (R213, R214). -/
def State.emitUnit (s : State) : State :=
  { s with out := s.out ++ List.replicate s.ospb s.unitByte, bitStart := s.idx ((s.bitStart : Int) + s.cfg.spb) }

/-- EMIT_STEP: at most one unit per PUSH (R215, R216). -/
def State.emitStep (s : State) : State := if s.due then s.emitUnit else s

end Sys2Proof.Machine
end

