-- ==== Sys2Proof/Machine/Ops.lean ====
section
/-! DEFINITION. The named operations on the state that the meanings share: the ring write (R100), the position
count (R237), taking a fault (R262), reset (R290), and accepting a command (R230, R232). -/

namespace Sys2Proof.Machine

/-- WRITE(x): `buf[p] <- x; p <- (p + 1) mod B` (R100). -/
def State.writeSample (s : State) (x : Byte) : State :=
  { s with buf := s.buf.write (s.idx s.p) x, p := s.idx (s.p + 1) }

/-- `pos <- min(pos + 1, POS_MAX)` (R237, R23). -/
def State.countPos (s : State) : State := { s with pos := min (s.pos + 1) posMax }

/-- Fault(code): `ctl <- FAULT; err <- code`, and nothing else (R262). -/
def State.raiseFault (s : State) (code : BitVec 8) : State := { s with ctl := .fault, err := code }

/-- The host's next event is taken from the input, and nothing else changes. -/
def State.consume (s : State) (rest : List HostEvent) : State := { s with input := rest }

/-- Reset of the running block: every piece of state at its reset value, only the configuration survives (R290);
what the host does next is the host's. -/
def State.assertReset (s : State) : State := { State.resetWith s.cfg with input := s.input }

/-- Why the block accepts no command: it is in DONE or FAULT (R230). -/
def State.stopReason (s : State) : Option Fault :=
  match s.ctl with
  | .idle => none
  | .run => none
  | .done => some .streamEnded
  | .fault => some (.errorState s.err)

/-- A command is accepted in IDLE and RUN only (R230). -/
abbrev State.accepting (s : State) : Prop := s.ctl = .idle ∨ s.ctl = .run

/-- The outcome of an accepted command with next state `t`; in DONE and FAULT no step is taken (R230). -/
def State.whenAccepting (s : State) (t : State) : Host.Outcome State Fault Refusal :=
  match s.stopReason with
  | none => .next t
  | some r => .fault r

/-- What the block finds at its input. -/
inductive Intake where
  /-- Reset is asserted; the state is the one after it (R290). -/
  | reset (s : State)
  /-- A command word is accepted; the state has consumed it and is otherwise unchanged (R230). -/
  | command (w : Word) (s : State)
  /-- No step: waiting, or ended, or in FAULT (R230, R232). -/
  | stop (r : Fault)

/-- Take the host's next event.  Reset is taken in every control state (R290); a command only in IDLE and RUN,
and in DONE and FAULT the word is not consumed (R230). -/
def State.accept (s : State) : Intake :=
  match s.input with
  | .reset :: rest => .reset (s.consume rest).assertReset
  | .command w :: rest =>
    match s.stopReason with
    | none => .command w (s.consume rest)
    | some r => .stop r
  | [] => .stop (s.stopReason.getD .waitingForCommand)

end Sys2Proof.Machine
end

