-- ==== Sys2Proof/Machine/Templates.lean ====
section
/-! DEFINITION. The HeaderTemplateBank (41_templates.md): the expanded templates and their statistics, as
functions of the configuration alone (R139), so that no step can write them. -/

namespace Sys2Proof

/-- EXPAND_BITS (R131): header bit `j` of header `k` is bit `j mod 8` of byte `j div 8`, least significant first. -/
def Config.hbit (c : Config) (k : HeaderIndex) (j : Nat) : Bool :=
  ((c.header k).bytes.getD (j / 8) 0).getLsbD (j % 8)

/-- `val(bit) = 2*bit - 1`: bit 1 is +1 and bit 0 is -1 (R132). -/
def bitVal (b : Bool) : Int := if b then 1 else -1

/-- EXPAND_SAMPLES (R133): `tv[k][i] = val(hbit[k][i div SPB])` for `i = 0..L[k]-1`. -/
def Config.tv (c : Config) (k : HeaderIndex) : List Int :=
  (List.range (c.len k)).map fun i => bitVal (c.hbit k (i / c.spb))

/-- TEMPLATE_SUMS (R134) of a template: the sum of its values. -/
def templateSum (t : List Int) : Int := t.sum

/-- TEMPLATE_MEAN (R135) of a template: its sum over its length, exact. -/
def templateMean (t : List Int) : ℚ := templateSum t / t.length

/-- The square of TEMPLATE_SD (R136): `max(1 - mean_t^2, SD_FLOOR^2)`.  The square is held because
`max(sqrt v, F)^2 = max(v, F^2)` for non-negative `v` and `F`, and the square is rational. -/
def templateSdSq (t : List Int) : ℚ := max (1 - templateMean t ^ 2) (sdFloor ^ 2)

/-- `mean_t[k]` of the bank (R30, R135). -/
def Config.meanT (c : Config) (k : HeaderIndex) : ℚ := templateMean (c.tv k)

/-- The square of `sd_t[k]` of the bank (R30, R136). -/
def Config.sdSqT (c : Config) (k : HeaderIndex) : ℚ := templateSdSq (c.tv k)

end Sys2Proof
end

