-- ==== Sys2Proof/Machine/Buffer.lean ====
section
/-! DEFINITION. The window statistics of the CircularSampleBuffer (R103 to R106), on a window as a list of
samples, in exact arithmetic. -/

namespace Sys2Proof.Machine

/-- `S`: the sum of a window's samples (R106). -/
def windowSum (w : List Byte) : Int := (w.map sampleVal).sum

/-- `Q`: the sum of the squares of a window's samples (R106). -/
def windowSqSum (w : List Byte) : Int := (w.map fun x => sampleVal x ^ 2).sum

/-- `C`: the sum of the products of a window's samples and the template's values (R106). -/
def crossSum (w : List Byte) (t : List Int) : Int := (List.zipWith (fun x v => sampleVal x * v) w t).sum

/-- WINDOW_MEAN (R103). -/
def windowMean (w : List Byte) : ℚ := windowSum w / w.length

/-- The variance of WINDOW_SD: `E[x^2] - mean^2` (R104). -/
def windowVar (w : List Byte) : ℚ := (windowSqSum w : ℚ) / w.length - windowMean w ^ 2

/-- The square of WINDOW_SD: `max(var, SD_FLOOR^2)` (R104). -/
def windowSdSq (w : List Byte) : ℚ := max (windowVar w) (sdFloor ^ 2)

/-- CORRELATE: the cross sum over the number of samples, not centred (R105). -/
def correlate (w : List Byte) (t : List Int) : ℚ := (crossSum w t : ℚ) / w.length

end Sys2Proof.Machine
end

