-- ==== Sys2Proof/Machine/Correlation.lean ====
section
/-! DEFINITION. The CorrelationDetector (42_correlation.md): the score of a window against a template, in the
exact representation `(s, q)` of R157, and its integer form (R151). -/

namespace Sys2Proof.Machine

/-- A score `s * sqrt q`, with `s` in `-1, 0, +1` and `q` a non-negative rational (R157). -/
structure Score where
  sign : Int
  sq   : ℚ
  deriving DecidableEq, Repr

/-- `s * q`: two scores compare as their signed squares do (R157). -/
def Score.signedSq (v : Score) : ℚ := v.sign * v.sq

/-- `|value|` is `(|s|, q)` (R157). -/
def Score.abs (v : Score) : Score := { v with sign := |v.sign| }

/-- `value * polarity` is `(s * polarity, q)` (R157). -/
def Score.withPolarity (v : Score) (pol : Polarity) : Score := { v with sign := v.sign * pol.sign }

/-- `value > THRES`, decided on squares (R156). -/
abbrev Score.aboveThres (v : Score) : Prop := thres ^ 2 < v.signedSq

/-- The sign of a rational, in `-1, 0, +1`. -/
def ratSign (x : ℚ) : Int := if x > 0 then 1 else if x < 0 then -1 else 0

/-- The numerator of SCORE: `raw - mean_s * mean_t` (R150). -/
def scoreNum (w : List Byte) (t : List Int) : ℚ := correlate w t - windowMean w * templateMean t

/-- The square of SCORE's denominator: `(sd_s * sd_t)^2` (R150). -/
def scoreDenSq (w : List Byte) (t : List Int) : ℚ := windowSdSq w * templateSdSq t

/-- SCORE of a window against a template: `(raw - mean_s * mean_t) / (sd_s * sd_t)` (R150) as `(s, q)` (R157). -/
def scoreOf (w : List Byte) (t : List Int) : Score :=
  { sign := ratSign (scoreNum w t), sq := scoreNum w t ^ 2 / scoreDenSq w t }

/-- `X = N*C - S*T` (R151). -/
def scoreX (w : List Byte) (t : List Int) : Int := w.length * crossSum w t - windowSum w * templateSum t

/-- `A_s = N*Q - S*S` (R151). -/
def scoreAs (w : List Byte) : Int := w.length * windowSqSum w - windowSum w ^ 2

/-- `A_t = N*N - T*T` (R151). -/
def scoreAt (t : List Int) : Int := (t.length : Int) ^ 2 - templateSum t ^ 2

/-- `A` floored at `N*N*F*F`: `Ds2` from `A_s`, `Dt2` from `A_t` (R151). -/
def floored (a : Int) (n : Nat) : ℚ :=
  if (a : ℚ) ≥ (n : ℚ) ^ 2 * sdFloor ^ 2 then a else (n : ℚ) ^ 2 * sdFloor ^ 2

/-- The integer form of the score: `X / sqrt(Ds2 * Dt2)` (R151), as `(s, q)`. -/
def scoreIntForm (w : List Byte) (t : List Int) : Score :=
  { sign := (scoreX w t).sign
    sq := (scoreX w t : ℚ) ^ 2 / (floored (scoreAs w) w.length * floored (scoreAt t) t.length) }

/-- SCORE(w, k): the window of `L[k]` samples from ring index `start` against header `k` (R150). -/
def State.score (s : State) (start : Int) (k : HeaderIndex) : Score :=
  scoreOf (s.win start (s.cfg.len k)) (s.cfg.tv k)

end Sys2Proof.Machine
end

