-- ==== Sys2Proof/Machine/Tracker.lean ====
section
/-! DEFINITION. The ClockTracker (43_tracker.md): the gate, rules 1 to 5, the commit, and their composition
TRACK_STEP (R185). -/

namespace Sys2Proof.Machine

/-- `gate(k)`: one-sided for the main header, `|pos - OFF[k]| <= SPB` for a field header (R172). -/
abbrev gate (c : Config) (k : HeaderIndex) (pos : Nat) : Prop :=
  if k = 0 then c.off 0 - c.spb ≤ pos else |(pos : Int) - c.off k| ≤ c.spb

/-- Rule 5's condition: a field header whose offset `pos` exceeds by more than `SPB` (R182). -/
abbrev forceDue (c : Config) (k : HeaderIndex) (pos : Nat) : Prop := k ≠ 0 ∧ c.off k + c.spb < pos

/-- Rule 1: `corr` is `|value|` for header 0, `value * polarity` otherwise (R174), over the `L[hdr]` most recent
samples (R173). -/
def State.corr (s : State) : Score :=
  let value := s.score (s.idx ((s.p : Int) - s.cfg.len s.hdr)) s.hdr
  if s.hdr = 0 then value.abs else value.withPolarity s.polarity

/-- Rule 2: record the new best and its position, the last sample of the bit period after the window (R175). -/
def State.recordBest (s : State) (corr : Score) : State :=
  { s with maxCorr := corr.sq, newStart := s.idx ((s.p : Int) + s.cfg.spb - 1) }

/-- The start of the best match's window: `(new_start - (SPB - 1) - L[0]) mod B` (R179). -/
def State.bestWindow (s : State) : Nat :=
  s.idx ((s.newStart : Int) - ((s.cfg.spb : Int) - 1) - s.cfg.len 0)

/-- POLARITY_FIX: the polarity from the sign of the score re-derived on the best window, on the ring's current
contents; zero leaves it (R179). -/
def State.polarityFix (s : State) : State :=
  { s with polarity := s.polarity.fix (s.score s.bestWindow 0).sign }

/-- `shift = sgnB(new_start - bit_start)` (R181). -/
def State.shift (s : State) : Int := sgnB s.cfg.ringSize ((s.newStart : Int) - s.bitStart)

/-- CLOCK_UPDATE: `bit_start` to `new_start`, or one period before it unless `2*|shift| < SPB` (R181). -/
def State.clockUpdate (s : State) : State :=
  { s with bitStart := if 2 * |s.shift| < s.cfg.spb then s.newStart else s.idx ((s.newStart : Int) - s.cfg.spb) }

/-- The next header, `(hdr + 1) mod 7`, with the search started anew (R178, R182, R184). -/
def State.advanceHdr (s : State) : State := { s with hdr := s.hdr + 1, maxCorr := 0 }

/-- The main header's part of a commit: POLARITY_FIX and `pos <- 0` (R178, R180). -/
def State.anchorMain (s : State) : State := { s.polarityFix with pos := 0 }

/-- COMMIT(hdr) (R178). -/
def State.commit (s : State) : State :=
  (if s.hdr = 0 then s.anchorMain else s).clockUpdate.advanceHdr

/-- Rules 1 to 4: the gated sub-step (R174 to R177). -/
def State.gatedStep (s : State) : State :=
  if s.corr.aboveThres then
    if s.maxCorr < s.corr.signedSq then s.recordBest s.corr else s
  else if s.tracking then s.commit
  else s

/-- TRACK_STEP (R185). -/
def State.trackStep (s : State) : State :=
  if gate s.cfg s.hdr s.pos then s.gatedStep
  else if forceDue s.cfg s.hdr s.pos then s.advanceHdr
  else s

end Sys2Proof.Machine
end

