-- ==== Sys2Proof/Machine/Commands.lean ====
section
/-! DEFINITION. The meanings of the four commands (45_commands.md), one definition each, over the shared
operations. -/

namespace Sys2Proof.Machine

/-- SAMPLE_STEP(x): WRITE, the position count, TRACK_STEP, EMIT_STEP, in that order (R237). -/
def State.sampleStep (s : State) (x : Byte) : State := (s.writeSample x).countPos.trackStep.emitStep

/-- `ctl <- RUN` (R233). -/
def State.toRun (s : State) : State := { s with ctl := .run }

/-- PUSH x: `ctl <- RUN; SAMPLE_STEP(x)` (R233). -/
def execPush (x : Byte) (s : State) : Host.Outcome State Fault Refusal :=
  s.whenAccepting (s.toRun.sampleStep x)

/-- `mode.OVS <- ovs` (R234). -/
def State.setMode (s : State) (ovs : Bool) : State := { s with ovs := ovs }

/-- `ctl <- DONE` (R235). -/
def State.toDone (s : State) : State := { s with ctl := .done }

/-- SETMODE ovs: in IDLE it writes MODE.OVS, in RUN it faults with ERR_MODE_LATE (R234). -/
def execSetmode (ovs : Bool) (s : State) : Host.Outcome State Fault Refusal :=
  s.whenAccepting (if s.ctl = .idle then s.setMode ovs else s.raiseFault errModeLate)

/-- EOS: `ctl <- DONE`; it flushes nothing (R235). -/
def execEos (s : State) : Host.Outcome State Fault Refusal := s.whenAccepting s.toDone

/-- An illegal word: Fault(ERR_ILLEGAL_CMD), which keeps no copy of the word (R236, R264). -/
def execIllegal (_w : Word) (s : State) : Host.Outcome State Fault Refusal :=
  s.whenAccepting (s.raiseFault errIllegalCmd)

end Sys2Proof.Machine
end

