-- ==== Sys2Proof/Machine/Step.lean ====
section
/-! DEFINITION. One step of the block: the host's next event is taken, a command word is decoded and runs (R12,
R231), a reset resets (R290). -/

namespace Sys2Proof.Machine

/-- One step: the processing of one accepted command, atomic (R12), or a reset. -/
def step (s : State) : Host.Outcome State Fault Refusal :=
  match s.accept with
  | .reset t => .next t
  | .command w t => exec (decode w) t
  | .stop r => .fault r

/-- `s` with the host offering, as its next input, the command word whose low `nbits` bits are those of `w`. -/
def State.withFetchWord (s : State) (nbits w : Nat) : State :=
  { s with input := .command (BitVec.ofNat 16 (w % 2 ^ nbits)) :: s.input }

end Sys2Proof.Machine
end

