-- ==== Sys2Proof/Machine/Assembler.lean ====
section
/-! DEFINITION. The assembler of R82 and the pseudo-instructions of R83: from text to command words.  An operand
out of range, and any line that is not of R82's or R83's form, is an assembly error (`none`).  How spaces, commas
and quotes are read is a DESIGN CHOICE (log entry 13), safe. -/

namespace Sys2Proof.Machine

/-- One line of assembly, its operands as the numbers written (R82, R83). -/
inductive AsmLine where
  /-- `PUSH <imm8>` -/
  | push (v : Nat)
  /-- `SETMODE <0|1>` -/
  | setmode (v : Nat)
  /-- `EOS` -/
  | eos
  /-- `.word <imm16>`: any raw command word -/
  | word (v : Nat)
  /-- `PUSHN v, n`: n copies of `PUSH v` -/
  | pushN (v n : Nat)
  /-- `PUSHBITS A1, A0, s`: `PUSHN A1, SPB` for each 1 of `s`, `PUSHN A0, SPB` for each 0 -/
  | pushBits (a1 a0 : Nat) (bits : List Bool)
  /-- `OVERSAMPLE`: `SETMODE 1` -/
  | oversample
  /-- `SILENCE n`: `PUSHN 128, n` -/
  | silence (n : Nat)
  /-- A line that holds only spaces or a comment -/
  | empty
  deriving DecidableEq, Repr

/-- `n` copies of `PUSH v`, where `v` is in range (R82, R83). -/
def pushCopies (v n : Nat) : Option (List Word) :=
  if v < 256 then some (List.replicate n (encode (.push (BitVec.ofNat 8 v)))) else none

/-- `SETMODE v`, where `v` is 0 or 1 (R82). -/
def setmodeWords (v : Nat) : Option (List Word) :=
  if v < 2 then some [encode (.setmode (v == 1))] else none

/-- The expansion of `PUSHBITS A1, A0, s`, in the order of the bits (R83). -/
def pushBitsWords (spb a1 a0 : Nat) (bits : List Bool) : Option (List Word) :=
  match bits with
  | [] => if a1 < 256 ∧ a0 < 256 then some [] else none
  | b :: rest => do
    let head ← pushCopies (if b then a1 else a0) spb
    let tail ← pushBitsWords spb a1 a0 rest
    pure (head ++ tail)

/-- The command words of one line, in a block with `spb` samples per bit (R82, R83). -/
def AsmLine.words (spb : Nat) (l : AsmLine) : Option (List Word) :=
  match l with
  | .push v => pushCopies v 1
  | .setmode v => setmodeWords v
  | .eos => some [encode .eos]
  | .word v => if v < 2 ^ 16 then some [BitVec.ofNat 16 v] else none
  | .pushN v n => pushCopies v n
  | .pushBits a1 a0 bits => pushBitsWords spb a1 a0 bits
  | .oversample => setmodeWords 1
  | .silence n => pushCopies 128 n
  | .empty => some []

/-- The command words of a program, line after line; one bad line makes it an assembly error (R82). -/
def assembleLines (spb : Nat) (ls : List AsmLine) : Option (List Word) :=
  match ls with
  | [] => some []
  | l :: rest => do
    let head ← l.words spb
    let tail ← assembleLines spb rest
    pure (head ++ tail)

/-- The text before the comment sign `;` (R82). -/
def stripComment (t : List Char) : List Char := t.takeWhile (· != ';')

/-- The characters that stand between tokens. -/
def isSeparator (ch : Char) : Bool := ch == ' ' || ch == ',' || ch == Char.ofNat 9 || ch == Char.ofNat 13

/-- The tokens of a line, `cur` being the one read so far, reversed. -/
def tokensFrom (cur : List Char) (t : List Char) : List (List Char) :=
  match t with
  | [] => if cur.isEmpty then [] else [cur.reverse]
  | ch :: rest =>
    if isSeparator ch then
      if cur.isEmpty then tokensFrom [] rest else cur.reverse :: tokensFrom [] rest
    else tokensFrom (ch :: cur) rest

/-- The lines of a text, `cur` being the one read so far, reversed. -/
def linesFrom (cur : List Char) (t : List Char) : List (List Char) :=
  match t with
  | [] => [cur.reverse]
  | ch :: rest => if ch == Char.ofNat 10 then cur.reverse :: linesFrom [] rest else linesFrom (ch :: cur) rest

/-- The value of a digit in base 16; a decimal digit's value is below 10. -/
def digitVal (ch : Char) : Option Nat :=
  let v := ch.toNat
  if 48 ≤ v ∧ v ≤ 57 then some (v - 48)
  else if 97 ≤ v ∧ v ≤ 102 then some (v - 87)
  else if 65 ≤ v ∧ v ≤ 70 then some (v - 55)
  else none

/-- The number that digits in base `b` stand for, continuing from `acc`. -/
def readDigits (b acc : Nat) (t : List Char) : Option Nat :=
  match t with
  | [] => some acc
  | ch :: rest =>
    match digitVal ch with
    | none => none
    | some d => if d < b then readDigits b (acc * b + d) rest else none

/-- A number, decimal or `0x` hexadecimal (R82). -/
def readNumber (t : List Char) : Option Nat :=
  match t with
  | [] => none
  | '0' :: 'x' :: ch :: rest => readDigits 16 0 (ch :: rest)
  | ch :: rest => readDigits 10 0 (ch :: rest)

/-- A bit string of `0` and `1`, in double quotes (character 34) or bare (R83). -/
def readBits (t : List Char) : Option (List Bool) :=
  match t with
  | [] => some []
  | ch :: rest =>
    if ch == Char.ofNat 34 then readBits rest
    else if ch == '1' then (readBits rest).map (true :: ·)
    else if ch == '0' then (readBits rest).map (false :: ·)
    else none

/-- The line that a mnemonic and its operand tokens stand for (R82, R83). -/
def lineOf (mnemonic : List Char) (args : List (List Char)) : Option AsmLine :=
  match args with
  | [] =>
    if mnemonic = "EOS".toList then some .eos
    else if mnemonic = "OVERSAMPLE".toList then some .oversample
    else none
  | [a] =>
    if mnemonic = "PUSH".toList then (readNumber a).map .push
    else if mnemonic = "SETMODE".toList then (readNumber a).map .setmode
    else if mnemonic = ".word".toList then (readNumber a).map .word
    else if mnemonic = "SILENCE".toList then (readNumber a).map .silence
    else none
  | [a, b] =>
    if mnemonic = "PUSHN".toList then do
      let v ← readNumber a
      let n ← readNumber b
      pure (.pushN v n)
    else none
  | [a, b, s] =>
    if mnemonic = "PUSHBITS".toList then do
      let a1 ← readNumber a
      let a0 ← readNumber b
      let bits ← readBits s
      pure (.pushBits a1 a0 bits)
    else none
  | _ :: _ :: _ :: _ :: _ => none

/-- One line of text (R82). -/
def readLine (t : List Char) : Option AsmLine :=
  match tokensFrom [] (stripComment t) with
  | [] => some .empty
  | mnemonic :: args => lineOf mnemonic args

/-- Every line of a text, or `none` if one is not a line of R82 or R83. -/
def readLines (ts : List (List Char)) : Option (List AsmLine) :=
  match ts with
  | [] => some []
  | t :: rest => do
    let l ← readLine t
    let ls ← readLines rest
    pure (l :: ls)

/-- The command words of an assembly text, in a block with `spb` samples per bit (R82, R83). -/
def assemble (spb : Nat) (text : List Char) : Option (List Word) := do
  let ls ← readLines (linesFrom [] text)
  assembleLines spb ls

end Sys2Proof.Machine
end

