-- ==== Sys2Proof/Safety.lean ====
section
/-! DEFINITION. The terms the statements use: the end of a run, the invariants of the state, runs of PUSHes, the
history the ring holds, and the scores as real numbers. -/

namespace Sys2Proof.Machine

/-- A run has ended successfully when `ctl` is DONE (R276). -/
abbrev State.succeeded (s : State) : Prop := s.ctl = .done

/-- The state that TRACK_STEP sees in an accepted `PUSH x`: `ctl` is RUN, the sample is written at `p`, the head
and the position have moved (R233, R237, R100, R23). -/
def State.afterWrite (s : State) (x : Byte) : State :=
  { s with
    ctl := .run
    buf := s.buf.write (ringIdx s.cfg.ringSize s.p) x
    p := ringIdx s.cfg.ringSize (s.p + 1)
    pos := min (s.pos + 1) posMax }

/-- The ranges of the datapath registers (R38 with R21, R22, R23, R28, R29), in a block with a legal
configuration, and the ring's canonical form. -/
structure State.Ranges (s : State) : Prop where
  legal    : s.cfg.Legal
  p        : s.p < s.cfg.ringSize
  newStart : s.newStart < s.cfg.ringSize
  bitStart : s.bitStart < s.cfg.ringSize
  pos      : s.pos ≤ posMax
  maxCorr  : s.maxCorr = 0 ∨ thres ^ 2 < s.maxCorr
  bufWf    : s.buf.wf
  bufIdx   : ∀ cell ∈ s.buf, cell.1 < s.cfg.ringSize

/-- What `ctl` and `err` say of each other and of the configuration (R33, R34, R261, R293). -/
structure State.StatusOk (s : State) : Prop where
  faultErr : s.ctl = .fault ↔ s.err ≠ errNone
  codes    : s.err = errNone ∨ s.err = errConfig ∨ s.err = errIllegalCmd ∨ s.err = errModeLate
  config   : s.err = errConfig ↔ ¬ s.cfg.Legal

/-- In IDLE the block is as reset left it, but for MODE and the host's input (R33, R38: no PUSH accepted). -/
def State.Fresh (s : State) : Prop :=
  s.ctl = .idle → s = ((State.resetWith s.cfg).setMode s.ovs).consume s.input

/-- `t` is reached from `s` by executing one PUSH for each sample of `xs`, in order. -/
inductive PushRun : State → List Byte → State → Prop where
  | nil (s : State) : PushRun s [] s
  | cons (s u t : State) (x : Byte) (xs : List Byte) :
      exec (.push x) s = .next u → PushRun u xs t → PushRun s (x :: xs) t

/-- The ring holds the most recent samples of the history `xs` (oldest first), and the pre-fill where nothing has
been written: sample `i` of the history is at index `i mod B` (R37, as R100 writes it; log entry 11). -/
structure State.HoldsRecent (s : State) (xs : List Byte) : Prop where
  head    : s.p = xs.length % s.cfg.ringSize
  recent  : ∀ i, i < xs.length → xs.length ≤ i + s.cfg.ringSize →
              s.buf.read (i % s.cfg.ringSize) = xs.getD i prefill
  prefill : ∀ i, xs.length ≤ i → i < s.cfg.ringSize → s.buf.read i = prefill

/-- The two states are equal, or differ only in `new_start` while both are searching (R39 (b)). -/
def SameButStaleStart (s t : State) : Prop :=
  s = t ∨ (s.maxCorr = 0 ∧ t = { s with newStart := t.newStart })

/-- A score as the real number `s * sqrt q` that it stands for (R157). -/
noncomputable def Score.real (v : Score) : ℝ := (v.sign : ℝ) * Real.sqrt (v.sq : ℝ)

/-- SCORE of R150 on real numbers, from the sums of R103 to R105 and R134 to R136: the definition that the exact
representation is compared with. -/
noncomputable def realScore (w : List Byte) (t : List Int) : ℝ :=
  let n : ℝ := (w.length : ℝ)
  let meanS : ℝ := (windowSum w : ℝ) / n
  let meanT : ℝ := (templateSum t : ℝ) / (t.length : ℝ)
  let sdS : ℝ := max (Real.sqrt ((windowSqSum w : ℝ) / n - meanS * meanS)) (sdFloor : ℝ)
  let sdT : ℝ := max (Real.sqrt (1 - meanT * meanT)) (sdFloor : ℝ)
  ((crossSum w t : ℝ) / n - meanS * meanT) / (sdS * sdT)

end Sys2Proof.Machine
end

