-- ==== Sys2Proof/Certificates/Slice0/Obligations.lean ====
section
/-! DEFINITION. The statements about the block, for the provers.  Each docstring names what of spec/ it formalises;
what rests on an inference that the spec marks as its own, or on a choice of the model, says so. -/

open Sys2Proof Sys2Proof.Machine

/-! ### Encodings (30_encoding.md) -/

/-- Words written out from the encodings of R73 to R76 decode to what they stand for (the table of
95_test_vectors.md section 2.1). -/
def Obligations.SampleWordsDecode : Prop :=
  decode 0x0100 = .push 0x00 ∧ decode 0x0180 = .push 0x80 ∧ decode 0x01FF = .push 0xFF ∧
  decode 0x0200 = .setmode false ∧ decode 0x0201 = .setmode true ∧ decode 0x0300 = .eos ∧
  decode 0x0000 = .illegal 0x0000 ∧ decode 0x0202 = .illegal 0x0202 ∧ decode 0x02FF = .illegal 0x02FF ∧
  decode 0x0301 = .illegal 0x0301 ∧ decode 0x0400 = .illegal 0x0400 ∧ decode 0xFFFF = .illegal 0xFFFF

/-- R73 to R76: the decoder, written from the fields of R77, agrees on every word with the match and mask of each
row, tried in order. -/
def Obligations.DecodeAgreesWithMatchAndMask : Prop :=
  ∀ w : Word, decode w =
    if w &&& 0xFF00 = 0x0100 then .push (w.extractLsb' 0 8)
    else if w &&& 0xFFFE = 0x0200 then .setmode (w.getLsbD 0)
    else if w &&& 0xFFFF = 0x0300 then .eos
    else .illegal w

/-- Decoding the word of a well-formed command gives it back, for every command and every operand. -/
def Obligations.DecodeEncodeRoundTrip : Prop :=
  ∀ i : Instr, i.wf = true → decode (encode i) = i

/-- R76, decoding is total: every word decodes to a well-formed command, whose word it is; so every word is
exactly one of PUSH, SETMODE, EOS or illegal. -/
def Obligations.EncodeDecodeRoundTrip : Prop :=
  ∀ w : Word, (decode w).wf = true ∧ encode (decode w) = w

/-- R82 and R83: the words of the plain assembly lines, an operand out of range being an assembly error; and the
pseudo-instructions: PUSHN is copies of PUSH, PUSHBITS one PUSHN of SPB samples for each bit in order, SILENCE is
PUSHN 128, OVERSAMPLE is SETMODE 1. -/
def Obligations.AssemblyLinesExpand : Prop :=
  ∀ spb : Nat,
    (∀ v, (AsmLine.push v).words spb = if v < 256 then some [BitVec.ofNat 16 (0x0100 + v)] else none) ∧
    (∀ v, (AsmLine.setmode v).words spb = if v < 2 then some [BitVec.ofNat 16 (0x0200 + v)] else none) ∧
    AsmLine.eos.words spb = some [0x0300] ∧
    (∀ v, (AsmLine.word v).words spb = if v < 2 ^ 16 then some [BitVec.ofNat 16 v] else none) ∧
    (∀ v n, v < 256 → (AsmLine.pushN v n).words spb = assembleLines spb (List.replicate n (.push v))) ∧
    (∀ a1 a0 bits, a1 < 256 → a0 < 256 →
      (AsmLine.pushBits a1 a0 bits).words spb =
        assembleLines spb (bits.map fun b => .pushN (if b then a1 else a0) spb)) ∧
    (∀ n, (AsmLine.silence n).words spb = (AsmLine.pushN 128 n).words spb) ∧
    AsmLine.oversample.words spb = (AsmLine.setmode 1).words spb

/-! ### Steps, acceptance, faults (45_commands.md, 60_exceptions.md) -/

/-- R231: in IDLE and RUN, a step takes the word the host offers and is exec of the command it decodes to, the
word being consumed. -/
def Obligations.StepRunsTheDecodedWord : Prop :=
  ∀ (s : State) (w : Word) (rest : List HostEvent),
    s.ctl = .idle ∨ s.ctl = .run → s.input = .command w :: rest →
    step s = exec (decode w) { s with input := rest }

/-- R230: a command has a next state exactly in IDLE and RUN. -/
def Obligations.CommandsAcceptedExactlyInIdleAndRun : Prop :=
  ∀ (i : Instr) (s : State), (∃ t, exec i s = .next t) ↔ (s.ctl = .idle ∨ s.ctl = .run)

/-- In DONE and FAULT a step on an offered word has no next state, and in IDLE and RUN the block waits while nothing is
offered (R230, R232).  That the machine answers these named faults is the model's form of taking no step (log
entries 3 and 5). -/
def Obligations.EndedFaultedAndWaitingTakeNoStep : Prop :=
  ∀ s : State,
    (∀ w rest, s.input = .command w :: rest → s.ctl = .done → step s = .fault .streamEnded) ∧
    (∀ w rest, s.input = .command w :: rest → s.ctl = .fault → step s = .fault (.errorState s.err)) ∧
    (s.ctl = .idle ∨ s.ctl = .run → s.input = [] → step s = .fault .waitingForCommand)

/-- R267: only reset leaves FAULT, and only reset leaves DONE; it leaves the state after reset of the same
configuration (R290). -/
def Obligations.OnlyResetLeavesDoneAndFault : Prop :=
  ∀ s t : State, s.ctl = .done ∨ s.ctl = .fault → step s = .next t →
    ∃ rest, s.input = .reset :: rest ∧ t = { State.resetWith s.cfg with input := rest }

/-- R33: the control state after an accepted command. -/
def Obligations.ControlTransitions : Prop :=
  ∀ (i : Instr) (s t : State), exec i s = .next t →
    t.ctl = match i with
      | .push _ => .run
      | .setmode _ => if s.ctl = .idle then .idle else .fault
      | .eos => .done
      | .illegal _ => .fault

/-- R233 with R237: an accepted PUSH sets ctl to RUN, writes the sample, counts the position, then runs TRACK_STEP,
then EMIT_STEP, and completes. -/
def Obligations.PushCompletesAsSampleStep : Prop :=
  ∀ (s : State) (x : Byte), s.ctl = .idle ∨ s.ctl = .run →
    exec (.push x) s = .next
      ({ s with
          ctl := .run
          buf := s.buf.write (ringIdx s.cfg.ringSize s.p) x
          p := ringIdx s.cfg.ringSize (s.p + 1)
          pos := min (s.pos + 1) (2 ^ 32 - 1) } : State).trackStep.emitStep

/-- R234 (with R265, R262 and R300): in IDLE, SETMODE writes MODE.OVS and nothing else; in RUN it enters FAULT with
code 3 and changes nothing else, MODE included. -/
def Obligations.SetmodeTakesEffectOnlyInIdle : Prop :=
  ∀ (s : State) (ovs : Bool),
    (s.ctl = .idle → exec (.setmode ovs) s = .next { s with ovs := ovs }) ∧
    (s.ctl = .run → exec (.setmode ovs) s = .next { s with ctl := .fault, err := 3 })

/-- R235: EOS moves ctl to DONE and writes nothing else. -/
def Obligations.EosEndsTheStream : Prop :=
  ∀ s : State, s.ctl = .idle ∨ s.ctl = .run → exec .eos s = .next { s with ctl := .done }

/-- R264 with R262: an accepted illegal word enters FAULT with code 2 and changes nothing else. -/
def Obligations.IllegalWordFaults : Prop :=
  ∀ (s : State) (w : Word), s.ctl = .idle ∨ s.ctl = .run →
    exec (.illegal w) s = .next { s with ctl := .fault, err := 2 }

/-- R266: decoding decides first.  In RUN, a word that is no legal command faults with code 2, and the two legal
SETMODE words fault with code 3; so 0x0202 in RUN is ERR_ILLEGAL_CMD. -/
def Obligations.DecodingDecidesTheErrorFirst : Prop :=
  ∀ (s : State) (w : Word) (rest : List HostEvent), s.ctl = .run → s.input = .command w :: rest →
    (w &&& 0xFF00 ≠ 0x0100 → w &&& 0xFFFE ≠ 0x0200 → w ≠ 0x0300 →
      step s = .next { s with input := rest, ctl := .fault, err := 2 }) ∧
    (w = 0x0200 ∨ w = 0x0201 → step s = .next { s with input := rest, ctl := .fault, err := 3 })

/-! ### Reset and configuration (70_reset_and_hazards.md) -/

/-- R291 and R293: every piece of state after reset, for every configuration. -/
def Obligations.ResetLeavesTheStatedValues : Prop :=
  ∀ c : Config,
    (∀ i, (State.resetWith c).buf.read i = 128) ∧ (State.resetWith c).p = 0 ∧ (State.resetWith c).pos = 0 ∧
    (State.resetWith c).hdr = 0 ∧ (State.resetWith c).polarity = .plus ∧ (State.resetWith c).maxCorr = 0 ∧
    (State.resetWith c).newStart = 0 ∧
    (State.resetWith c).bitStart = ringIdx c.ringSize (((8 * c.nb 0 * c.spb : Nat) : Int) - 1) ∧
    (State.resetWith c).ovs = false ∧ (State.resetWith c).out = [] ∧
    (c.Legal → (State.resetWith c).ctl = .idle ∧ (State.resetWith c).err = 0) ∧
    (¬ c.Legal → (State.resetWith c).ctl = .fault ∧ (State.resetWith c).err = 1)

/-- R290: reset may be asserted in any control state; only the configuration survives it. -/
def Obligations.ResetInAnyStateDiscardsTheRun : Prop :=
  ∀ (s : State) (rest : List HostEvent), s.input = .reset :: rest →
    step s = .next { State.resetWith s.cfg with input := rest }

/-- R292: the six conditions of a legal configuration; condition 1 as the existence of the exponent. -/
def Obligations.LegalityIsTheSixConditions : Prop :=
  ∀ c : Config, c.Legal ↔
    ((∃ e, c.ringSize = 2 ^ e) ∧ 2 ≤ c.ringSize) ∧
    1 ≤ c.spb ∧
    (c.headers.length = 7 ∧ ∀ h ∈ c.headers, 1 ≤ h.bytes.length) ∧
    (∀ h ∈ c.headers, 8 * h.bytes.length * c.spb + c.spb < c.ringSize) ∧
    2 * (8 * ((c.headers.map fun h => h.bytes.length).headD 0) * c.spb) < c.ringSize ∧
    ((∀ h ∈ c.headers, 0 ≤ h.off) ∧ ∀ h ∈ c.headers.tail, h.off + c.spb < 2 ^ 32 - 1)

/-- R20 and R139: no step writes the configuration, so none changes a template or its statistics. -/
def Obligations.ConfigurationAndTemplatesNeverChange : Prop :=
  ∀ s t : State, step s = .next t →
    t.cfg = s.cfg ∧ ∀ k, t.cfg.tv k = s.cfg.tv k ∧ t.cfg.meanT k = s.cfg.meanT k ∧ t.cfg.sdSqT k = s.cfg.sdSqT k

/-! ### Frames -/

/-- The frame of PUSH: every byte of the ring but the one at index `p` reads as before; MODE, err, the
configuration and the host's input are as before; the output only grows.  PUSH may write `p`, `pos`, `hdr`,
`max_corr`, `new_start`, `polarity`, `bit_start` (R233). -/
def Obligations.PushFrame : Prop :=
  ∀ (s t : State) (x : Byte), exec (.push x) s = .next t →
    (∀ a, a ≠ ringIdx s.cfg.ringSize s.p → t.buf.read a = s.buf.read a) ∧
    t.ovs = s.ovs ∧ t.err = s.err ∧ t.ctl = .run ∧ t.cfg = s.cfg ∧ t.input = s.input ∧ s.out <+: t.out

/-- The frame of SETMODE, EOS and an illegal word: every byte of the ring and every register but MODE, ctl and err
are as before; MODE changes only under SETMODE in IDLE, err only on a fault. -/
def Obligations.ControlCommandsFrame : Prop :=
  ∀ (i : Instr) (s t : State), (∀ x, i ≠ .push x) → exec i s = .next t →
    (∀ a, t.buf.read a = s.buf.read a) ∧
    t = { s with ovs := t.ovs, ctl := t.ctl, err := t.err } ∧
    (t.ctl ≠ .fault → t.err = s.err) ∧ (t.ctl ≠ .idle → t.ovs = s.ovs) ∧ ((∀ b, i ≠ .setmode b) → t.ovs = s.ovs)

/-- R35 and R215: `out` is append-only; only a PUSH appends, and at most one unit of OSPB equal bytes. -/
def Obligations.OutputGrowsByAtMostOneUnit : Prop :=
  ∀ (i : Instr) (s t : State), exec i s = .next t →
    t.out = s.out ∨
    (∃ x b, i = .push x ∧ t.out = s.out ++ List.replicate (if s.ovs then s.cfg.spb else 1) b)

/-- R23 and R25: a PUSH counts the position, saturating, unless it commits header 0, which clears it; and no other
PUSH writes polarity. -/
def Obligations.OnlyMainCommitClearsPosAndWritesPolarity : Prop :=
  ∀ (s t : State) (x : Byte), exec (.push x) s = .next t →
    t.pos = (if s.hdr = 0 ∧ t.hdr = 1 then 0 else min (s.pos + 1) (2 ^ 32 - 1)) ∧
    (¬ (s.hdr = 0 ∧ t.hdr = 1) → t.polarity = s.polarity)

/-! ### The ring (20_memory.md, 40_buffer.md) -/

/-- R100: PUSH writes its sample at index `p`, leaves every other cell, and moves the head by one, wrapping at
capacity.  That the ring's list is canonical before is the premise of log entry 10 (the model's form of the ring);
`RingHoldsTheMostRecentSamples` says that it stays so. -/
def Obligations.PushWritesTheRing : Prop :=
  ∀ (s : State) (x : Byte), s.ctl = .idle ∨ s.ctl = .run → s.p < s.cfg.ringSize → s.buf.wf →
    ∃ t, exec (.push x) s = .next t ∧ t.buf.read s.p = x ∧ (∀ a, a ≠ s.p → t.buf.read a = s.buf.read a) ∧
      t.p = (if s.p + 1 = s.cfg.ringSize then 0 else s.p + 1)

/-- R101: `sgnB r` is the one number in `(-B/2, B/2]` that is `r` mod B. -/
def Obligations.SignedNormalization : Prop :=
  ∀ (n : Nat) (r d : Int), 0 < n → (sgnB n r = d ↔ -(n : Int) < 2 * d ∧ 2 * d ≤ n ∧ (n : Int) ∣ r - d)

/-- R102: a window is the cells from `start` on, mod B, in ascending index, and each ring cell appears at most
once. -/
def Obligations.WindowCellsAreDistinct : Prop :=
  ∀ (s : State) (start : Int) (n : Nat), 1 ≤ n → n ≤ s.cfg.ringSize →
    (s.win start n).length = n ∧
    (∀ i, i < n → (s.win start n).getD i 0 = s.buf.read (((start + i) % (s.cfg.ringSize : Int)).toNat)) ∧
    ∀ i j, i < n → j < n → ringIdx s.cfg.ringSize (start + i) = ringIdx s.cfg.ringSize (start + j) → i = j

/-- "buffer always holds the most recent BUFSIZE samples" (the sentence of 10_state.md section 6 that the spec marks
as its own inference): it holds at reset of the empty history, and every PUSH adds its sample to the history and keeps
the ring's list canonical (log entry 10).  Sample i, counted from 0, is at index i mod B, as R100 writes it (log entry
11). -/
def Obligations.RingHoldsTheMostRecentSamples : Prop :=
  (∀ c : Config, (State.resetWith c).HoldsRecent [] ∧ (State.resetWith c).buf.wf) ∧
  ∀ (s t : State) (x : Byte), 0 < s.cfg.ringSize → s.buf.wf → exec (.push x) s = .next t →
    t.buf.wf ∧ ∀ xs : List Byte, s.HoldsRecent xs → t.HoldsRecent (xs ++ [x])

/-! ### Templates (41_templates.md) -/

/-- R131, R132, R133: the expanded template: `L[k]` values, each header bit LSB first repeated SPB times, +1 for a 1
and -1 for a 0. -/
def Obligations.TemplateExpansion : Prop :=
  ∀ (c : Config) (k : HeaderIndex),
    (c.tv k).length = 8 * (c.header k).bytes.length * c.spb ∧
    ∀ (byte bit rep : Nat), byte < (c.header k).bytes.length → bit < 8 → rep < c.spb →
      (c.tv k).getD ((8 * byte + bit) * c.spb + rep) 0 =
        if ((c.header k).bytes.getD byte 0).getLsbD bit then 1 else -1

/-- The closed form of the template sum, `SPB * (ones - zeros)` (a sentence of 41_templates.md that the spec marks as
its own inference). -/
def Obligations.TemplateSumIsOnesLessZeros : Prop :=
  ∀ (c : Config) (k : HeaderIndex),
    templateSum (c.tv k) =
      c.spb * (((List.range (8 * c.nb k)).countP fun j => c.hbit k j) -
        ((List.range (8 * c.nb k)).countP fun j => !c.hbit k j : Nat) : Int)

/-! ### The score (40_buffer.md, 42_correlation.md) -/

/-- R103, R104, R135, R136 as real numbers: a window's mean is its sum over its length, in `[0, 255]`, and
`sd = max(sqrt(E[x^2] - mean^2), SD_FLOOR)`; a header's `mean_t = T / L` and
`sd_t = max(sqrt(1 - mean_t^2), SD_FLOOR)`. -/
def Obligations.WindowAndTemplateStatistics : Prop :=
  (∀ w : List Byte, 1 ≤ w.length →
    windowMean w = ((w.map sampleVal).sum : ℚ) / w.length ∧ 0 ≤ windowMean w ∧ windowMean w ≤ 255 ∧
    Real.sqrt (windowSdSq w : ℝ) =
      max (Real.sqrt (((w.map fun x => sampleVal x * sampleVal x).sum : ℝ) / w.length - (windowMean w : ℝ) ^ 2))
        (1 / 2 ^ 16)) ∧
  ∀ (c : Config) (k : HeaderIndex),
    c.meanT k = ((c.tv k).sum : ℚ) / c.len k ∧
    Real.sqrt (c.sdSqT k : ℝ) = max (Real.sqrt (1 - (c.meanT k : ℝ) ^ 2)) (1 / 2 ^ 16)

/-- R150: the pair (s, q) that the model computes stands for the real number that SCORE is. -/
def Obligations.ScoreIsTheRealScore : Prop :=
  ∀ (w : List Byte) (t : List Int), (scoreOf w t).real = realScore w t

/-- The integer form of the score equals the rational one (42_correlation.md section 1, a form the spec marks as its
own inference). -/
def Obligations.IntegerFormEqualsScore : Prop :=
  ∀ (w : List Byte) (t : List Int), w.length = t.length → scoreIntForm w t = scoreOf w t

/-- `|value| <= 1` always (42_correlation.md section 2, an inference of the spec's; 90_conflicts.md C1). -/
def Obligations.ScoreIsAtMostOne : Prop :=
  ∀ (c : Config) (k : HeaderIndex) (w : List Byte), w.length = c.len k → |realScore w (c.tv k)| ≤ 1

/-- A window whose samples are all equal scores 0, and so does a header whose bits are all equal, against every window
(42_correlation.md section 2 and 41_templates.md, inferences the spec marks as its own). -/
def Obligations.ConstantWindowOrHeaderScoresZero : Prop :=
  (∀ (x : Byte) (t : List Int), scoreOf (List.replicate t.length x) t = ⟨0, 0⟩) ∧
  ∀ (s : State) (k : HeaderIndex) (b : Bool) (start : Int),
    (∀ j, j < 8 * s.cfg.nb k → s.cfg.hbit k j = b) → s.score start k = ⟨0, 0⟩

/-- A window equal to the template up to a rational scale and offset scores 1, or -1 for a negative scale
(42_correlation.md section 3, an inference of the spec's), for lengths up to 2^31 as 40_buffer.md section 2 has it
(log entry 12). -/
def Obligations.MatchingWindowScoresOne : Prop :=
  ∀ (c : Config) (k : HeaderIndex) (w : List Byte) (a o : ℚ),
    c.len k ≤ 2 ^ 31 → w.map (fun x => (sampleVal x : ℚ)) = (c.tv k).map (fun v => a * v + o) →
    (1 : Int) ∈ c.tv k → (-1 : Int) ∈ c.tv k →
    (0 < a → scoreOf w (c.tv k) = ⟨1, 1⟩) ∧ (a < 0 → scoreOf w (c.tv k) = ⟨-1, 1⟩)

/-- The least non-zero variance: `n*Q - S^2 >= n - 1` unless all samples are equal, so the floor changes `sd` only
when the variance is 0 (40_buffer.md section 2, an inference of the spec's). -/
def Obligations.LeastNonZeroVariance : Prop :=
  ∀ w : List Byte, (∃ x ∈ w, ∃ y ∈ w, x ≠ y) →
    (w.length : Int) - 1 ≤ w.length * windowSqSum w - windowSum w ^ 2 ∧
    (w.length ≤ 2 ^ 31 → windowSdSq w = windowVar w)

/-- R174 with R173 and R150: `corr` is `|value|` for header 0 and `value * polarity` for the others, the value being
the real score of the `L[hdr]` most recent samples. -/
def Obligations.CorrIsFormedFromTheMostRecentWindow : Prop :=
  ∀ s : State,
    (s.hdr = 0 → s.corr.real =
      |realScore (s.win (ringIdx s.cfg.ringSize ((s.p : Int) - s.cfg.len 0)) (s.cfg.len 0)) (s.cfg.tv 0)|) ∧
    (s.hdr ≠ 0 → s.corr.real =
      realScore (s.win (ringIdx s.cfg.ringSize ((s.p : Int) - s.cfg.len s.hdr)) (s.cfg.len s.hdr))
        (s.cfg.tv s.hdr) * (if s.polarity = .minus then -1 else 1))

/-- R26: the representation of `max_corr` decides every comparison of the tracker exactly as the exact real does:
`corr > THRES`, `corr > max_corr`, `max_corr > 0`, and the sign that POLARITY_FIX reads. -/
def Obligations.TrackerComparisonsAreExact : Prop :=
  ∀ s : State, 0 ≤ s.maxCorr →
    (s.corr.aboveThres ↔ (4 / 5 : ℝ) < s.corr.real) ∧
    (s.maxCorr < s.corr.signedSq ↔ Real.sqrt (s.maxCorr : ℝ) < s.corr.real) ∧
    (s.tracking ↔ 0 < Real.sqrt (s.maxCorr : ℝ)) ∧
    ∀ w t, ((scoreOf w t).sign > 0 ↔ 0 < realScore w t) ∧ ((scoreOf w t).sign < 0 ↔ realScore w t < 0)

/-! ### The tracker (43_tracker.md) -/

/-- R172: the gate's bounds, inclusive, one-sided for header 0. -/
def Obligations.GateBounds : Prop :=
  ∀ (c : Config) (k : HeaderIndex) (pos : Nat),
    (k = 0 → (gate c k pos ↔ c.off 0 - c.spb ≤ pos)) ∧
    (k ≠ 0 → (gate c k pos ↔ c.off k - c.spb ≤ pos ∧ pos ≤ c.off k + c.spb))

/-- R175: a PUSH whose `corr` is above THRES records it when it exceeds `max_corr`, and as its position the last
sample of the bit period after the window; a tie, or less, keeps the earlier best.  The phase is then tracking;
header, polarity and position stay. -/
def Obligations.AboveThresholdRecordsTheBest : Prop :=
  ∀ (s : State) (x : Byte), s.ctl = .idle ∨ s.ctl = .run → gate s.cfg s.hdr (s.afterWrite x).pos →
    (s.afterWrite x).corr.aboveThres →
    ∃ t, exec (.push x) s = .next t ∧
      (if s.maxCorr < (s.afterWrite x).corr.signedSq then
        t.maxCorr = (s.afterWrite x).corr.signedSq ∧
        t.newStart = ringIdx s.cfg.ringSize (((s.afterWrite x).p : Int) + s.cfg.spb - 1)
      else t.maxCorr = s.maxCorr ∧ t.newStart = s.newStart) ∧
      0 < t.maxCorr ∧ t.hdr = s.hdr ∧ t.polarity = s.polarity ∧ t.pos = (s.afterWrite x).pos

/-- Below threshold while searching (43_tracker.md section 3), and before the gate, where neither the gate nor rule 5
holds (section 5, an inference the spec marks as its own): TRACK_STEP changes nothing, so the PUSH leaves the tracker's
state but for the position it counts and the emitter's advance of `bit_start`. -/
def Obligations.TrackerSkips : Prop :=
  ∀ (s : State) (x : Byte), s.ctl = .idle ∨ s.ctl = .run →
    (gate s.cfg s.hdr (s.afterWrite x).pos ∧ ¬ (s.afterWrite x).corr.aboveThres ∧ s.maxCorr = 0) ∨
      ((s.afterWrite x).pos < s.cfg.off s.hdr - s.cfg.spb) →
    ∃ t, exec (.push x) s = .next t ∧ t.hdr = s.hdr ∧ t.maxCorr = s.maxCorr ∧ t.newStart = s.newStart ∧
      t.polarity = s.polarity ∧ t.pos = (s.afterWrite x).pos ∧
      t.bitStart =
        (if 0 ≤ sgnB s.cfg.ringSize (((s.afterWrite x).p : Int) - 1 - s.bitStart)
         then ringIdx s.cfg.ringSize ((s.bitStart : Int) + s.cfg.spb) else s.bitStart)

/-- R178, R179, R180: the commit of header 0 fixes the polarity from the sign of the score re-derived on the best
window over the ring's current contents (zero leaves it), clears the position, and moves to header 1, searching. -/
def Obligations.MainHeaderCommit : Prop :=
  ∀ (s : State) (x : Byte), s.ctl = .idle ∨ s.ctl = .run → s.hdr = 0 →
    gate s.cfg 0 (s.afterWrite x).pos → ¬ (s.afterWrite x).corr.aboveThres → 0 < s.maxCorr →
    ∃ t, exec (.push x) s = .next t ∧ t.hdr = 1 ∧ t.maxCorr = 0 ∧ t.pos = 0 ∧ t.newStart = s.newStart ∧
      t.polarity =
        (let wb := ringIdx s.cfg.ringSize ((s.newStart : Int) - ((s.cfg.spb : Int) - 1) - s.cfg.len 0)
         let v := scoreOf ((s.afterWrite x).win wb (s.cfg.len 0)) (s.cfg.tv 0)
         if v.sign > 0 then .plus else if v.sign < 0 then .minus else s.polarity)

/-- R178 for a field header: the commit moves to the next header, cyclically, searching; polarity and position are
unchanged. -/
def Obligations.FieldHeaderCommit : Prop :=
  ∀ (s : State) (x : Byte), s.ctl = .idle ∨ s.ctl = .run → s.hdr ≠ 0 →
    gate s.cfg s.hdr (s.afterWrite x).pos → ¬ (s.afterWrite x).corr.aboveThres → 0 < s.maxCorr →
    ∃ t, exec (.push x) s = .next t ∧ t.hdr.val = (s.hdr.val + 1) % 7 ∧ t.maxCorr = 0 ∧
      t.pos = (s.afterWrite x).pos ∧ t.newStart = s.newStart ∧ t.polarity = s.polarity

/-- R181: at every commit `bit_start` becomes `new_start` when `2*|shift| < SPB`, else one period before it; the
emitter of the same PUSH then advances it by one period if it is due (R211, R214). -/
def Obligations.CommitAlignsTheBitClock : Prop :=
  ∀ (s : State) (x : Byte), s.ctl = .idle ∨ s.ctl = .run →
    gate s.cfg s.hdr (s.afterWrite x).pos → ¬ (s.afterWrite x).corr.aboveThres → 0 < s.maxCorr →
    ∃ t, exec (.push x) s = .next t ∧
      t.bitStart =
        (let shift := sgnB s.cfg.ringSize ((s.newStart : Int) - s.bitStart)
         let b : Nat := if 2 * |shift| < s.cfg.spb then s.newStart
           else ringIdx s.cfg.ringSize ((s.newStart : Int) - s.cfg.spb)
         if 0 ≤ sgnB s.cfg.ringSize (((s.afterWrite x).p : Int) - 1 - b)
         then ringIdx s.cfg.ringSize ((b : Int) + s.cfg.spb) else b)

/-- R182: past its gate, a field header is left for the next one; a peak being tracked is dropped; polarity, position
and `new_start` are unchanged, and so is `bit_start`, which the emitter of the same PUSH then advances by one period
exactly when it is due (R211, R214). -/
def Obligations.ForceAdvance : Prop :=
  ∀ (s : State) (x : Byte), s.ctl = .idle ∨ s.ctl = .run → s.hdr ≠ 0 →
    s.cfg.off s.hdr + s.cfg.spb < (s.afterWrite x).pos →
    ∃ t, exec (.push x) s = .next t ∧ t.hdr.val = (s.hdr.val + 1) % 7 ∧ t.maxCorr = 0 ∧
      t.polarity = s.polarity ∧ t.pos = (s.afterWrite x).pos ∧ t.newStart = s.newStart ∧
      t.bitStart =
        (if 0 ≤ sgnB s.cfg.ringSize (((s.afterWrite x).p : Int) - 1 - s.bitStart)
         then ringIdx s.cfg.ringSize ((s.bitStart : Int) + s.cfg.spb) else s.bitStart)

/-- The header moves by at most one in a PUSH, and then the search starts anew; while it stays, the best never
decreases (43_tracker.md sections 5 and 7, inferences of the spec's). -/
def Obligations.HeaderMovesByOneAndBestNeverDecreases : Prop :=
  ∀ (s t : State) (x : Byte), exec (.push x) s = .next t →
    (t.hdr = s.hdr ∧ s.maxCorr ≤ t.maxCorr) ∨ (t.hdr = s.hdr + 1 ∧ t.maxCorr = 0)

/-- Progress (43_tracker.md section 7, an inference of the spec's): a field header's slot ends, by commit or
force-advance, no later than the PUSH that takes the position past `OFF + SPB`. -/
def Obligations.FieldHeaderSlotEnds : Prop :=
  ∀ (s t : State) (xs : List Byte), s.cfg.Legal → s.hdr ≠ 0 → 1 ≤ xs.length →
    s.cfg.off s.hdr + s.cfg.spb + 1 ≤ (s.pos : Int) + xs.length → PushRun s xs t →
    ∃ ys u, ys <+: xs ∧ PushRun s ys u ∧ u.hdr = s.hdr + 1

/-- The best window is intact for a commit delay of at most `B - L[0]` PUSHes (70_reset_and_hazards.md section 2, an
inference of the spec's): after a new best, what POLARITY_FIX rereads is the window the best was scored on. -/
def Obligations.BestWindowStaysIntact : Prop :=
  ∀ (s t : State) (xs : List Byte), 0 < s.cfg.ringSize →
    s.newStart = ringIdx s.cfg.ringSize ((s.p : Int) + s.cfg.spb - 1) → PushRun s xs t →
    t.newStart = s.newStart → xs.length + s.cfg.len 0 ≤ s.cfg.ringSize →
    t.win t.bestWindow (s.cfg.len 0) = s.win ((s.p : Int) - s.cfg.len 0) (s.cfg.len 0)

/-- No output depends on a stale `new_start` (10_state.md section 6, R39 (b)): states that differ only in it while
searching take the same steps and stay so. -/
def Obligations.StaleStartIsUnobservable : Prop :=
  ∀ s t s' : State, SameButStaleStart s t → step s = .next s' →
    ∃ t', step t = .next t' ∧ SameButStaleStart s' t' ∧ t'.out = s'.out ∧ t'.status = s'.status

/-! ### The emitter (44_emitter.md) -/

/-- R211 to R214: after TRACK_STEP, a PUSH emits one unit exactly when `dist(bit_start) >= 0`: the average of the SPB
cells ending at `bit_start`, rounded half up, inverted under polarity -1, OSPB times; and then advances `bit_start`
by SPB. -/
def Obligations.EmitterStep : Prop :=
  ∀ (s : State) (x : Byte), s.ctl = .idle ∨ s.ctl = .run →
    let v := (s.afterWrite x).trackStep
    let cell := fun j : Nat => (v.buf.read (ringIdx s.cfg.ringSize ((v.bitStart : Int) - j))).toNat
    let avg := (2 * ((List.range s.cfg.spb).map cell).sum + s.cfg.spb) / (2 * s.cfg.spb)
    let byte : Byte := BitVec.ofNat 8 (if v.polarity = .minus then 255 - avg else avg)
    ∃ t, exec (.push x) s = .next t ∧
      if 0 ≤ sgnB s.cfg.ringSize ((v.p : Int) - 1 - v.bitStart) then
        t.out = s.out ++ List.replicate (if s.ovs then s.cfg.spb else 1) byte ∧
        t.bitStart = ringIdx s.cfg.ringSize ((v.bitStart : Int) + s.cfg.spb)
      else t.out = s.out ∧ t.bitStart = v.bitStart

/-- The average of R212 is the nearest integer, a tie rounding up; it is in `0..255` (R79), and R213's inversion is
exact. -/
def Obligations.EmittedByteIsTheRoundedAverage : Prop :=
  ∀ s : State, 1 ≤ s.cfg.spb →
    let sum := (s.periodCells.map BitVec.toNat).sum
    2 * s.cfg.spb * s.periodAvg ≤ 2 * sum + s.cfg.spb ∧ 2 * sum + s.cfg.spb < 2 * s.cfg.spb * (s.periodAvg + 1) ∧
    s.periodAvg ≤ 255 ∧
    s.unitByte.toNat = if s.polarity = .minus then 255 - s.periodAvg else s.periodAvg

/-- The steady state (44_emitter.md, a property the spec marks as its own inference): in every PUSH that commits no
header (a force-advance included), `dist(bit_start)` in `[-SPB, -1]` rises by one, and from -1 goes to -SPB with one
unit emitted; so it stays in that range and one unit is emitted every SPB PUSHes. -/
def Obligations.EmitterSteadyState : Prop :=
  ∀ (s t : State) (x : Byte), s.Ranges → exec (.push x) s = .next t →
    ¬ (gate s.cfg s.hdr (s.afterWrite x).pos ∧ ¬ (s.afterWrite x).corr.aboveThres ∧ 0 < s.maxCorr) →
    -(s.cfg.spb : Int) ≤ s.dist s.bitStart → s.dist s.bitStart ≤ -1 →
    t.dist t.bitStart = (if s.dist s.bitStart = -1 then -(s.cfg.spb : Int) else s.dist s.bitStart + 1) ∧
    -(s.cfg.spb : Int) ≤ t.dist t.bitStart ∧ t.dist t.bitStart ≤ -1 ∧
    t.out.length = s.out.length + if s.dist s.bitStart = -1 then (if s.ovs then s.cfg.spb else 1) else 0

/-- The first unit is emitted by PUSH number `L[0]`, and an input of fewer samples produces no output
(44_emitter.md and 70_reset_and_hazards.md section 3, inferences of the spec's), in a configuration with
`OFF[0] - SPB >= L[0]`, without which a lock in the pre-fill transient can come first (log entry 12). -/
def Obligations.FirstUnitAtPushL0 : Prop :=
  ∀ (c : Config) (t : State) (xs : List Byte), c.Legal → (c.len 0 : Int) ≤ c.off 0 - c.spb →
    PushRun (State.resetWith c) xs t →
    (xs.length < c.len 0 → t.out = []) ∧ (xs.length = c.len 0 → t.out.length = 1)

/-- Silence never locks (42_correlation.md section 2 and 44_emitter.md, inferences of the spec's): after any number of
PUSHes of 128 from reset the tracker still searches for header 0, polarity is +1, and every byte emitted is 128. -/
def Obligations.SilenceNeverLocks : Prop :=
  ∀ (c : Config) (t : State) (n : Nat), c.Legal → PushRun (State.resetWith c) (List.replicate n 128) t →
    t.hdr = 0 ∧ t.maxCorr = 0 ∧ t.polarity = .plus ∧ (∀ i, t.buf.read i = 128) ∧ ∀ b ∈ t.out, b = 128

/-! ### Invariants -/

/-- R38's ranges hold right after reset, for every legal configuration. -/
def Obligations.RangesAtReset : Prop :=
  State.reset.Ranges ∧ ∀ c : Config, c.Legal → (State.resetWith c).Ranges

/-- Every step keeps the ranges of 10_state.md section 6 (an inference the spec marks as its own) and the ring's
canonical form. -/
def Obligations.StepKeepsRanges : Prop :=
  ∀ s t : State, s.Ranges → step s = .next t → t.Ranges

/-- ctl and err agree with each other and with the configuration at reset, and every step keeps that: FAULT exactly
with a non-zero code, ERR_CONFIG exactly for an illegal configuration, codes 4 to 255 never (R34, R261, R293). -/
def Obligations.StatusStaysConsistent : Prop :=
  (∀ c : Config, (State.resetWith c).StatusOk) ∧ ∀ s t : State, s.StatusOk → step s = .next t → t.StatusOk

/-- In IDLE the block is as reset left it but for MODE: this holds at reset and every step keeps it; so no PUSH has
been accepted while ctl is IDLE (10_state.md section 6, an inference the spec marks as its own). -/
def Obligations.IdleIsFresh : Prop :=
  (∀ c : Config, (State.resetWith c).Fresh) ∧ ∀ s t : State, s.Fresh → step s = .next t → t.Fresh

/-- `max_corr` is at most 1 after reset of every configuration, and every step keeps that (10_state.md R26 with the
score's range, an inference of the spec's). -/
def Obligations.BestNeverExceedsOne : Prop :=
  (∀ c : Config, (State.resetWith c).maxCorr ≤ 1) ∧
  ∀ s t : State, s.maxCorr ≤ 1 → step s = .next t → t.maxCorr ≤ 1

/-- R81: the codes of the status outputs and of polarity.  `ctl` is 0 in IDLE, 1 in RUN, 2 in DONE and 3 in FAULT; `err`
is 0, 1, 2 or 3 for ERR_NONE, ERR_CONFIG, ERR_ILLEGAL_CMD and ERR_MODE_LATE; polarity's bit is 0 for +1 and 1 for -1.
So the host samples (0, 0) after reset of a legal configuration and (3, 1) of an illegal one. -/
def Obligations.StatusAndPolarityCodes : Prop :=
  (∀ s : State, s.status.2 = s.err ∧
    (s.ctl = .idle → s.status.1 = 0) ∧ (s.ctl = .run → s.status.1 = 1) ∧
    (s.ctl = .done → s.status.1 = 2) ∧ (s.ctl = .fault → s.status.1 = 3)) ∧
  (errNone = 0 ∧ errConfig = 1 ∧ errIllegalCmd = 2 ∧ errModeLate = 3) ∧
  (Polarity.plus.bit = 0 ∧ Polarity.plus.sign = 1 ∧ Polarity.minus.bit = 1 ∧ Polarity.minus.sign = -1) ∧
  ∀ c : Config, (c.Legal → (State.resetWith c).status = (0, 0)) ∧ (¬ c.Legal → (State.resetWith c).status = (3, 1))
end

