-- ==== Sys2Proof/Laws/Ring.lean ====
section
/-! SUPPORT. The laws of ring indices and of the signed distance. -/

namespace Sys2Proof

/-- POS_MAX as a numeral (R7). -/
theorem posMax_eq : posMax = 4294967295 := rfl

theorem ringIdx_lt (n : Nat) (i : Int) (h : 0 < n) : ringIdx n i < n := by
  have := Int.emod_nonneg i (b := n) (by omega)
  have := Int.emod_lt_of_pos i (b := n) (by omega)
  unfold ringIdx
  omega

/-- A ring index as an integer is the representative `i mod B` (R9). -/
theorem ringIdx_cast (n : Nat) (i : Int) (h : 0 < n) : (ringIdx n i : Int) = i % n :=
  Int.toNat_of_nonneg (Int.emod_nonneg i (by omega))

theorem ringIdx_natCast (n i : Nat) : ringIdx n (i : Int) = i % n := by
  unfold ringIdx
  rw [← Int.natCast_emod, Int.toNat_natCast]

theorem ringIdx_of_lt (n i : Nat) (h : i < n) : ringIdx n (i : Int) = i := by
  rw [ringIdx_natCast, Nat.mod_eq_of_lt h]

/-- Ring indices see their argument mod B only. -/
theorem ringIdx_emod (n : Nat) (i : Int) : ringIdx n (i % n) = ringIdx n i := by
  unfold ringIdx
  rw [Int.emod_emod_of_dvd _ (dvd_refl _)]

theorem ringIdx_congr (n : Nat) (i j : Int) (h : i % n = j % n) : ringIdx n i = ringIdx n j := by
  rw [← ringIdx_emod, h, ringIdx_emod]

/-- The signed distance sees its argument mod B only (R101). -/
theorem sgnB_congr (n : Nat) (i j : Int) (h : i % n = j % n) : sgnB n i = sgnB n j := by
  unfold sgnB
  rw [h]

/-- The signed distance of a number already in `(-B/2, B/2]` is that number (R101). -/
theorem sgnB_of_range (n : Nat) (r : Int) (h0 : -(n : Int) < 2 * r) (h1 : 2 * r ≤ n) : sgnB n r = r := by
  unfold sgnB
  rcases Int.lt_or_le r 0 with h | h
  · have e : r % (n : Int) = r + n := by
      rw [← Int.add_emod_right]
      exact Int.emod_eq_of_lt (by omega) (by omega)
    simp only [e]
    split <;> omega
  · rcases eq_or_lt_of_le h with e | e
    · subst e; simp
    · have e : r % (n : Int) = r := Int.emod_eq_of_lt (by omega) (by omega)
      simp only [e]
      split <;> omega

end Sys2Proof
end

