-- ==== Sys2Proof/Laws/State.lean ====
section
/-! SUPPORT. One lemma per field for each named update of the state, so that no later proof unfolds a record
update; and for each reader, that it reads the same where the update leaves what it reads. -/

namespace Sys2Proof.Machine

/-! The fields after WRITE (R100). -/

@[simp] theorem State.writeSample_cfg (s : State) (x : Byte) : (s.writeSample x).cfg = s.cfg := rfl
@[simp] theorem State.writeSample_buf (s : State) (x : Byte) : (s.writeSample x).buf = s.buf.write (s.idx s.p) x := rfl
@[simp] theorem State.writeSample_p (s : State) (x : Byte) : (s.writeSample x).p = s.idx (s.p + 1) := rfl
@[simp] theorem State.writeSample_pos (s : State) (x : Byte) : (s.writeSample x).pos = s.pos := rfl
@[simp] theorem State.writeSample_hdr (s : State) (x : Byte) : (s.writeSample x).hdr = s.hdr := rfl
@[simp] theorem State.writeSample_polarity (s : State) (x : Byte) : (s.writeSample x).polarity = s.polarity := rfl
@[simp] theorem State.writeSample_maxCorr (s : State) (x : Byte) : (s.writeSample x).maxCorr = s.maxCorr := rfl
@[simp] theorem State.writeSample_newStart (s : State) (x : Byte) : (s.writeSample x).newStart = s.newStart := rfl
@[simp] theorem State.writeSample_bitStart (s : State) (x : Byte) : (s.writeSample x).bitStart = s.bitStart := rfl
@[simp] theorem State.writeSample_ovs (s : State) (x : Byte) : (s.writeSample x).ovs = s.ovs := rfl
@[simp] theorem State.writeSample_ctl (s : State) (x : Byte) : (s.writeSample x).ctl = s.ctl := rfl
@[simp] theorem State.writeSample_err (s : State) (x : Byte) : (s.writeSample x).err = s.err := rfl
@[simp] theorem State.writeSample_out (s : State) (x : Byte) : (s.writeSample x).out = s.out := rfl
@[simp] theorem State.writeSample_input (s : State) (x : Byte) : (s.writeSample x).input = s.input := rfl
@[simp] theorem State.writeSample_idx (s : State) (x : Byte) (i : Int) : (s.writeSample x).idx i = s.idx i := rfl
@[simp] theorem State.writeSample_ospb (s : State) (x : Byte) : (s.writeSample x).ospb = s.ospb := rfl

/-! The fields after the position count (R237). -/

@[simp] theorem State.countPos_cfg (s : State) : (s.countPos).cfg = s.cfg := rfl
@[simp] theorem State.countPos_buf (s : State) : (s.countPos).buf = s.buf := rfl
@[simp] theorem State.countPos_p (s : State) : (s.countPos).p = s.p := rfl
@[simp] theorem State.countPos_pos (s : State) : (s.countPos).pos = min (s.pos + 1) posMax := rfl
@[simp] theorem State.countPos_hdr (s : State) : (s.countPos).hdr = s.hdr := rfl
@[simp] theorem State.countPos_polarity (s : State) : (s.countPos).polarity = s.polarity := rfl
@[simp] theorem State.countPos_maxCorr (s : State) : (s.countPos).maxCorr = s.maxCorr := rfl
@[simp] theorem State.countPos_newStart (s : State) : (s.countPos).newStart = s.newStart := rfl
@[simp] theorem State.countPos_bitStart (s : State) : (s.countPos).bitStart = s.bitStart := rfl
@[simp] theorem State.countPos_ovs (s : State) : (s.countPos).ovs = s.ovs := rfl
@[simp] theorem State.countPos_ctl (s : State) : (s.countPos).ctl = s.ctl := rfl
@[simp] theorem State.countPos_err (s : State) : (s.countPos).err = s.err := rfl
@[simp] theorem State.countPos_out (s : State) : (s.countPos).out = s.out := rfl
@[simp] theorem State.countPos_input (s : State) : (s.countPos).input = s.input := rfl
@[simp] theorem State.countPos_idx (s : State) (i : Int) : (s.countPos).idx i = s.idx i := rfl
@[simp] theorem State.countPos_ringRead (s : State) (i : Int) : (s.countPos).ringRead i = s.ringRead i := rfl
@[simp] theorem State.countPos_win (s : State) (i : Int) (m : Nat) : (s.countPos).win i m = s.win i m := rfl
@[simp] theorem State.countPos_score (s : State) (i : Int) (k : HeaderIndex) : (s.countPos).score i k = s.score i k := rfl
@[simp] theorem State.countPos_dist (s : State) (i : Int) : (s.countPos).dist i = s.dist i := rfl
@[simp] theorem State.countPos_ospb (s : State) : (s.countPos).ospb = s.ospb := rfl

/-! The fields after Fault(code) (R262). -/

@[simp] theorem State.raiseFault_cfg (s : State) (code : BitVec 8) : (s.raiseFault code).cfg = s.cfg := rfl
@[simp] theorem State.raiseFault_buf (s : State) (code : BitVec 8) : (s.raiseFault code).buf = s.buf := rfl
@[simp] theorem State.raiseFault_p (s : State) (code : BitVec 8) : (s.raiseFault code).p = s.p := rfl
@[simp] theorem State.raiseFault_pos (s : State) (code : BitVec 8) : (s.raiseFault code).pos = s.pos := rfl
@[simp] theorem State.raiseFault_hdr (s : State) (code : BitVec 8) : (s.raiseFault code).hdr = s.hdr := rfl
@[simp] theorem State.raiseFault_polarity (s : State) (code : BitVec 8) : (s.raiseFault code).polarity = s.polarity := rfl
@[simp] theorem State.raiseFault_maxCorr (s : State) (code : BitVec 8) : (s.raiseFault code).maxCorr = s.maxCorr := rfl
@[simp] theorem State.raiseFault_newStart (s : State) (code : BitVec 8) : (s.raiseFault code).newStart = s.newStart := rfl
@[simp] theorem State.raiseFault_bitStart (s : State) (code : BitVec 8) : (s.raiseFault code).bitStart = s.bitStart := rfl
@[simp] theorem State.raiseFault_ovs (s : State) (code : BitVec 8) : (s.raiseFault code).ovs = s.ovs := rfl
@[simp] theorem State.raiseFault_ctl (s : State) (code : BitVec 8) : (s.raiseFault code).ctl = .fault := rfl
@[simp] theorem State.raiseFault_err (s : State) (code : BitVec 8) : (s.raiseFault code).err = code := rfl
@[simp] theorem State.raiseFault_out (s : State) (code : BitVec 8) : (s.raiseFault code).out = s.out := rfl
@[simp] theorem State.raiseFault_input (s : State) (code : BitVec 8) : (s.raiseFault code).input = s.input := rfl
@[simp] theorem State.raiseFault_idx (s : State) (code : BitVec 8) (i : Int) : (s.raiseFault code).idx i = s.idx i := rfl
@[simp] theorem State.raiseFault_ringRead (s : State) (code : BitVec 8) (i : Int) : (s.raiseFault code).ringRead i = s.ringRead i := rfl
@[simp] theorem State.raiseFault_win (s : State) (code : BitVec 8) (i : Int) (m : Nat) : (s.raiseFault code).win i m = s.win i m := rfl
@[simp] theorem State.raiseFault_score (s : State) (code : BitVec 8) (i : Int) (k : HeaderIndex) : (s.raiseFault code).score i k = s.score i k := rfl
@[simp] theorem State.raiseFault_dist (s : State) (code : BitVec 8) (i : Int) : (s.raiseFault code).dist i = s.dist i := rfl
@[simp] theorem State.raiseFault_ospb (s : State) (code : BitVec 8) : (s.raiseFault code).ospb = s.ospb := rfl

/-! The fields after `ctl <- RUN` (R233). -/

@[simp] theorem State.toRun_cfg (s : State) : (s.toRun).cfg = s.cfg := rfl
@[simp] theorem State.toRun_buf (s : State) : (s.toRun).buf = s.buf := rfl
@[simp] theorem State.toRun_p (s : State) : (s.toRun).p = s.p := rfl
@[simp] theorem State.toRun_pos (s : State) : (s.toRun).pos = s.pos := rfl
@[simp] theorem State.toRun_hdr (s : State) : (s.toRun).hdr = s.hdr := rfl
@[simp] theorem State.toRun_polarity (s : State) : (s.toRun).polarity = s.polarity := rfl
@[simp] theorem State.toRun_maxCorr (s : State) : (s.toRun).maxCorr = s.maxCorr := rfl
@[simp] theorem State.toRun_newStart (s : State) : (s.toRun).newStart = s.newStart := rfl
@[simp] theorem State.toRun_bitStart (s : State) : (s.toRun).bitStart = s.bitStart := rfl
@[simp] theorem State.toRun_ovs (s : State) : (s.toRun).ovs = s.ovs := rfl
@[simp] theorem State.toRun_ctl (s : State) : (s.toRun).ctl = .run := rfl
@[simp] theorem State.toRun_err (s : State) : (s.toRun).err = s.err := rfl
@[simp] theorem State.toRun_out (s : State) : (s.toRun).out = s.out := rfl
@[simp] theorem State.toRun_input (s : State) : (s.toRun).input = s.input := rfl
@[simp] theorem State.toRun_idx (s : State) (i : Int) : (s.toRun).idx i = s.idx i := rfl
@[simp] theorem State.toRun_ringRead (s : State) (i : Int) : (s.toRun).ringRead i = s.ringRead i := rfl
@[simp] theorem State.toRun_win (s : State) (i : Int) (m : Nat) : (s.toRun).win i m = s.win i m := rfl
@[simp] theorem State.toRun_score (s : State) (i : Int) (k : HeaderIndex) : (s.toRun).score i k = s.score i k := rfl
@[simp] theorem State.toRun_dist (s : State) (i : Int) : (s.toRun).dist i = s.dist i := rfl
@[simp] theorem State.toRun_ospb (s : State) : (s.toRun).ospb = s.ospb := rfl

/-! The fields after a new best (R175). -/

@[simp] theorem State.recordBest_cfg (s : State) (v : Score) : (s.recordBest v).cfg = s.cfg := rfl
@[simp] theorem State.recordBest_buf (s : State) (v : Score) : (s.recordBest v).buf = s.buf := rfl
@[simp] theorem State.recordBest_p (s : State) (v : Score) : (s.recordBest v).p = s.p := rfl
@[simp] theorem State.recordBest_pos (s : State) (v : Score) : (s.recordBest v).pos = s.pos := rfl
@[simp] theorem State.recordBest_hdr (s : State) (v : Score) : (s.recordBest v).hdr = s.hdr := rfl
@[simp] theorem State.recordBest_polarity (s : State) (v : Score) : (s.recordBest v).polarity = s.polarity := rfl
@[simp] theorem State.recordBest_maxCorr (s : State) (v : Score) : (s.recordBest v).maxCorr = v.sq := rfl
@[simp] theorem State.recordBest_newStart (s : State) (v : Score) : (s.recordBest v).newStart = s.idx ((s.p : Int) + s.cfg.spb - 1) := rfl
@[simp] theorem State.recordBest_bitStart (s : State) (v : Score) : (s.recordBest v).bitStart = s.bitStart := rfl
@[simp] theorem State.recordBest_ovs (s : State) (v : Score) : (s.recordBest v).ovs = s.ovs := rfl
@[simp] theorem State.recordBest_ctl (s : State) (v : Score) : (s.recordBest v).ctl = s.ctl := rfl
@[simp] theorem State.recordBest_err (s : State) (v : Score) : (s.recordBest v).err = s.err := rfl
@[simp] theorem State.recordBest_out (s : State) (v : Score) : (s.recordBest v).out = s.out := rfl
@[simp] theorem State.recordBest_input (s : State) (v : Score) : (s.recordBest v).input = s.input := rfl
@[simp] theorem State.recordBest_idx (s : State) (v : Score) (i : Int) : (s.recordBest v).idx i = s.idx i := rfl
@[simp] theorem State.recordBest_ringRead (s : State) (v : Score) (i : Int) : (s.recordBest v).ringRead i = s.ringRead i := rfl
@[simp] theorem State.recordBest_win (s : State) (v : Score) (i : Int) (m : Nat) : (s.recordBest v).win i m = s.win i m := rfl
@[simp] theorem State.recordBest_score (s : State) (v : Score) (i : Int) (k : HeaderIndex) : (s.recordBest v).score i k = s.score i k := rfl
@[simp] theorem State.recordBest_dist (s : State) (v : Score) (i : Int) : (s.recordBest v).dist i = s.dist i := rfl
@[simp] theorem State.recordBest_ospb (s : State) (v : Score) : (s.recordBest v).ospb = s.ospb := rfl

/-! The fields after POLARITY_FIX (R179). -/

@[simp] theorem State.polarityFix_cfg (s : State) : (s.polarityFix).cfg = s.cfg := rfl
@[simp] theorem State.polarityFix_buf (s : State) : (s.polarityFix).buf = s.buf := rfl
@[simp] theorem State.polarityFix_p (s : State) : (s.polarityFix).p = s.p := rfl
@[simp] theorem State.polarityFix_pos (s : State) : (s.polarityFix).pos = s.pos := rfl
@[simp] theorem State.polarityFix_hdr (s : State) : (s.polarityFix).hdr = s.hdr := rfl
@[simp] theorem State.polarityFix_polarity (s : State) : (s.polarityFix).polarity = s.polarity.fix (s.score s.bestWindow 0).sign := rfl
@[simp] theorem State.polarityFix_maxCorr (s : State) : (s.polarityFix).maxCorr = s.maxCorr := rfl
@[simp] theorem State.polarityFix_newStart (s : State) : (s.polarityFix).newStart = s.newStart := rfl
@[simp] theorem State.polarityFix_bitStart (s : State) : (s.polarityFix).bitStart = s.bitStart := rfl
@[simp] theorem State.polarityFix_ovs (s : State) : (s.polarityFix).ovs = s.ovs := rfl
@[simp] theorem State.polarityFix_ctl (s : State) : (s.polarityFix).ctl = s.ctl := rfl
@[simp] theorem State.polarityFix_err (s : State) : (s.polarityFix).err = s.err := rfl
@[simp] theorem State.polarityFix_out (s : State) : (s.polarityFix).out = s.out := rfl
@[simp] theorem State.polarityFix_input (s : State) : (s.polarityFix).input = s.input := rfl
@[simp] theorem State.polarityFix_idx (s : State) (i : Int) : (s.polarityFix).idx i = s.idx i := rfl
@[simp] theorem State.polarityFix_ringRead (s : State) (i : Int) : (s.polarityFix).ringRead i = s.ringRead i := rfl
@[simp] theorem State.polarityFix_win (s : State) (i : Int) (m : Nat) : (s.polarityFix).win i m = s.win i m := rfl
@[simp] theorem State.polarityFix_score (s : State) (i : Int) (k : HeaderIndex) : (s.polarityFix).score i k = s.score i k := rfl
@[simp] theorem State.polarityFix_dist (s : State) (i : Int) : (s.polarityFix).dist i = s.dist i := rfl
@[simp] theorem State.polarityFix_ospb (s : State) : (s.polarityFix).ospb = s.ospb := rfl

/-! The fields after CLOCK_UPDATE (R181). -/

@[simp] theorem State.clockUpdate_cfg (s : State) : (s.clockUpdate).cfg = s.cfg := rfl
@[simp] theorem State.clockUpdate_buf (s : State) : (s.clockUpdate).buf = s.buf := rfl
@[simp] theorem State.clockUpdate_p (s : State) : (s.clockUpdate).p = s.p := rfl
@[simp] theorem State.clockUpdate_pos (s : State) : (s.clockUpdate).pos = s.pos := rfl
@[simp] theorem State.clockUpdate_hdr (s : State) : (s.clockUpdate).hdr = s.hdr := rfl
@[simp] theorem State.clockUpdate_polarity (s : State) : (s.clockUpdate).polarity = s.polarity := rfl
@[simp] theorem State.clockUpdate_maxCorr (s : State) : (s.clockUpdate).maxCorr = s.maxCorr := rfl
@[simp] theorem State.clockUpdate_newStart (s : State) : (s.clockUpdate).newStart = s.newStart := rfl
@[simp] theorem State.clockUpdate_bitStart (s : State) : (s.clockUpdate).bitStart = 
      if 2 * |s.shift| < s.cfg.spb then s.newStart else s.idx ((s.newStart : Int) - s.cfg.spb) := rfl
@[simp] theorem State.clockUpdate_ovs (s : State) : (s.clockUpdate).ovs = s.ovs := rfl
@[simp] theorem State.clockUpdate_ctl (s : State) : (s.clockUpdate).ctl = s.ctl := rfl
@[simp] theorem State.clockUpdate_err (s : State) : (s.clockUpdate).err = s.err := rfl
@[simp] theorem State.clockUpdate_out (s : State) : (s.clockUpdate).out = s.out := rfl
@[simp] theorem State.clockUpdate_input (s : State) : (s.clockUpdate).input = s.input := rfl
@[simp] theorem State.clockUpdate_idx (s : State) (i : Int) : (s.clockUpdate).idx i = s.idx i := rfl
@[simp] theorem State.clockUpdate_ringRead (s : State) (i : Int) : (s.clockUpdate).ringRead i = s.ringRead i := rfl
@[simp] theorem State.clockUpdate_win (s : State) (i : Int) (m : Nat) : (s.clockUpdate).win i m = s.win i m := rfl
@[simp] theorem State.clockUpdate_score (s : State) (i : Int) (k : HeaderIndex) : (s.clockUpdate).score i k = s.score i k := rfl
@[simp] theorem State.clockUpdate_dist (s : State) (i : Int) : (s.clockUpdate).dist i = s.dist i := rfl
@[simp] theorem State.clockUpdate_ospb (s : State) : (s.clockUpdate).ospb = s.ospb := rfl

/-! The fields after the move to the next header (R178, R182). -/

@[simp] theorem State.advanceHdr_cfg (s : State) : (s.advanceHdr).cfg = s.cfg := rfl
@[simp] theorem State.advanceHdr_buf (s : State) : (s.advanceHdr).buf = s.buf := rfl
@[simp] theorem State.advanceHdr_p (s : State) : (s.advanceHdr).p = s.p := rfl
@[simp] theorem State.advanceHdr_pos (s : State) : (s.advanceHdr).pos = s.pos := rfl
@[simp] theorem State.advanceHdr_hdr (s : State) : (s.advanceHdr).hdr = s.hdr + 1 := rfl
@[simp] theorem State.advanceHdr_polarity (s : State) : (s.advanceHdr).polarity = s.polarity := rfl
@[simp] theorem State.advanceHdr_maxCorr (s : State) : (s.advanceHdr).maxCorr = 0 := rfl
@[simp] theorem State.advanceHdr_newStart (s : State) : (s.advanceHdr).newStart = s.newStart := rfl
@[simp] theorem State.advanceHdr_bitStart (s : State) : (s.advanceHdr).bitStart = s.bitStart := rfl
@[simp] theorem State.advanceHdr_ovs (s : State) : (s.advanceHdr).ovs = s.ovs := rfl
@[simp] theorem State.advanceHdr_ctl (s : State) : (s.advanceHdr).ctl = s.ctl := rfl
@[simp] theorem State.advanceHdr_err (s : State) : (s.advanceHdr).err = s.err := rfl
@[simp] theorem State.advanceHdr_out (s : State) : (s.advanceHdr).out = s.out := rfl
@[simp] theorem State.advanceHdr_input (s : State) : (s.advanceHdr).input = s.input := rfl
@[simp] theorem State.advanceHdr_idx (s : State) (i : Int) : (s.advanceHdr).idx i = s.idx i := rfl
@[simp] theorem State.advanceHdr_ringRead (s : State) (i : Int) : (s.advanceHdr).ringRead i = s.ringRead i := rfl
@[simp] theorem State.advanceHdr_win (s : State) (i : Int) (m : Nat) : (s.advanceHdr).win i m = s.win i m := rfl
@[simp] theorem State.advanceHdr_score (s : State) (i : Int) (k : HeaderIndex) : (s.advanceHdr).score i k = s.score i k := rfl
@[simp] theorem State.advanceHdr_dist (s : State) (i : Int) : (s.advanceHdr).dist i = s.dist i := rfl
@[simp] theorem State.advanceHdr_ospb (s : State) : (s.advanceHdr).ospb = s.ospb := rfl

/-! The fields after the main header's part of a commit (R178). -/

@[simp] theorem State.anchorMain_cfg (s : State) : (s.anchorMain).cfg = s.cfg := rfl
@[simp] theorem State.anchorMain_buf (s : State) : (s.anchorMain).buf = s.buf := rfl
@[simp] theorem State.anchorMain_p (s : State) : (s.anchorMain).p = s.p := rfl
@[simp] theorem State.anchorMain_pos (s : State) : (s.anchorMain).pos = 0 := rfl
@[simp] theorem State.anchorMain_hdr (s : State) : (s.anchorMain).hdr = s.hdr := rfl
@[simp] theorem State.anchorMain_polarity (s : State) : (s.anchorMain).polarity = s.polarity.fix (s.score s.bestWindow 0).sign := rfl
@[simp] theorem State.anchorMain_maxCorr (s : State) : (s.anchorMain).maxCorr = s.maxCorr := rfl
@[simp] theorem State.anchorMain_newStart (s : State) : (s.anchorMain).newStart = s.newStart := rfl
@[simp] theorem State.anchorMain_bitStart (s : State) : (s.anchorMain).bitStart = s.bitStart := rfl
@[simp] theorem State.anchorMain_ovs (s : State) : (s.anchorMain).ovs = s.ovs := rfl
@[simp] theorem State.anchorMain_ctl (s : State) : (s.anchorMain).ctl = s.ctl := rfl
@[simp] theorem State.anchorMain_err (s : State) : (s.anchorMain).err = s.err := rfl
@[simp] theorem State.anchorMain_out (s : State) : (s.anchorMain).out = s.out := rfl
@[simp] theorem State.anchorMain_input (s : State) : (s.anchorMain).input = s.input := rfl
@[simp] theorem State.anchorMain_idx (s : State) (i : Int) : (s.anchorMain).idx i = s.idx i := rfl
@[simp] theorem State.anchorMain_ringRead (s : State) (i : Int) : (s.anchorMain).ringRead i = s.ringRead i := rfl
@[simp] theorem State.anchorMain_win (s : State) (i : Int) (m : Nat) : (s.anchorMain).win i m = s.win i m := rfl
@[simp] theorem State.anchorMain_score (s : State) (i : Int) (k : HeaderIndex) : (s.anchorMain).score i k = s.score i k := rfl
@[simp] theorem State.anchorMain_dist (s : State) (i : Int) : (s.anchorMain).dist i = s.dist i := rfl
@[simp] theorem State.anchorMain_ospb (s : State) : (s.anchorMain).ospb = s.ospb := rfl

/-! The fields after the output unit (R213, R214). -/

@[simp] theorem State.emitUnit_cfg (s : State) : (s.emitUnit).cfg = s.cfg := rfl
@[simp] theorem State.emitUnit_buf (s : State) : (s.emitUnit).buf = s.buf := rfl
@[simp] theorem State.emitUnit_p (s : State) : (s.emitUnit).p = s.p := rfl
@[simp] theorem State.emitUnit_pos (s : State) : (s.emitUnit).pos = s.pos := rfl
@[simp] theorem State.emitUnit_hdr (s : State) : (s.emitUnit).hdr = s.hdr := rfl
@[simp] theorem State.emitUnit_polarity (s : State) : (s.emitUnit).polarity = s.polarity := rfl
@[simp] theorem State.emitUnit_maxCorr (s : State) : (s.emitUnit).maxCorr = s.maxCorr := rfl
@[simp] theorem State.emitUnit_newStart (s : State) : (s.emitUnit).newStart = s.newStart := rfl
@[simp] theorem State.emitUnit_bitStart (s : State) : (s.emitUnit).bitStart = s.idx ((s.bitStart : Int) + s.cfg.spb) := rfl
@[simp] theorem State.emitUnit_ovs (s : State) : (s.emitUnit).ovs = s.ovs := rfl
@[simp] theorem State.emitUnit_ctl (s : State) : (s.emitUnit).ctl = s.ctl := rfl
@[simp] theorem State.emitUnit_err (s : State) : (s.emitUnit).err = s.err := rfl
@[simp] theorem State.emitUnit_out (s : State) : (s.emitUnit).out = s.out ++ List.replicate s.ospb s.unitByte := rfl
@[simp] theorem State.emitUnit_input (s : State) : (s.emitUnit).input = s.input := rfl
@[simp] theorem State.emitUnit_idx (s : State) (i : Int) : (s.emitUnit).idx i = s.idx i := rfl
@[simp] theorem State.emitUnit_ringRead (s : State) (i : Int) : (s.emitUnit).ringRead i = s.ringRead i := rfl
@[simp] theorem State.emitUnit_win (s : State) (i : Int) (m : Nat) : (s.emitUnit).win i m = s.win i m := rfl
@[simp] theorem State.emitUnit_score (s : State) (i : Int) (k : HeaderIndex) : (s.emitUnit).score i k = s.score i k := rfl
@[simp] theorem State.emitUnit_dist (s : State) (i : Int) : (s.emitUnit).dist i = s.dist i := rfl
@[simp] theorem State.emitUnit_ospb (s : State) : (s.emitUnit).ospb = s.ospb := rfl

/-! The fields after the host's event is taken. -/

@[simp] theorem State.consume_cfg (s : State) (rest : List HostEvent) : (s.consume rest).cfg = s.cfg := rfl
@[simp] theorem State.consume_buf (s : State) (rest : List HostEvent) : (s.consume rest).buf = s.buf := rfl
@[simp] theorem State.consume_p (s : State) (rest : List HostEvent) : (s.consume rest).p = s.p := rfl
@[simp] theorem State.consume_pos (s : State) (rest : List HostEvent) : (s.consume rest).pos = s.pos := rfl
@[simp] theorem State.consume_hdr (s : State) (rest : List HostEvent) : (s.consume rest).hdr = s.hdr := rfl
@[simp] theorem State.consume_polarity (s : State) (rest : List HostEvent) : (s.consume rest).polarity = s.polarity := rfl
@[simp] theorem State.consume_maxCorr (s : State) (rest : List HostEvent) : (s.consume rest).maxCorr = s.maxCorr := rfl
@[simp] theorem State.consume_newStart (s : State) (rest : List HostEvent) : (s.consume rest).newStart = s.newStart := rfl
@[simp] theorem State.consume_bitStart (s : State) (rest : List HostEvent) : (s.consume rest).bitStart = s.bitStart := rfl
@[simp] theorem State.consume_ovs (s : State) (rest : List HostEvent) : (s.consume rest).ovs = s.ovs := rfl
@[simp] theorem State.consume_ctl (s : State) (rest : List HostEvent) : (s.consume rest).ctl = s.ctl := rfl
@[simp] theorem State.consume_err (s : State) (rest : List HostEvent) : (s.consume rest).err = s.err := rfl
@[simp] theorem State.consume_out (s : State) (rest : List HostEvent) : (s.consume rest).out = s.out := rfl
@[simp] theorem State.consume_input (s : State) (rest : List HostEvent) : (s.consume rest).input = rest := rfl

/-! The fields after `mode.OVS <- ovs` (R234). -/

@[simp] theorem State.setMode_cfg (s : State) (b : Bool) : (s.setMode b).cfg = s.cfg := rfl
@[simp] theorem State.setMode_buf (s : State) (b : Bool) : (s.setMode b).buf = s.buf := rfl
@[simp] theorem State.setMode_p (s : State) (b : Bool) : (s.setMode b).p = s.p := rfl
@[simp] theorem State.setMode_pos (s : State) (b : Bool) : (s.setMode b).pos = s.pos := rfl
@[simp] theorem State.setMode_hdr (s : State) (b : Bool) : (s.setMode b).hdr = s.hdr := rfl
@[simp] theorem State.setMode_polarity (s : State) (b : Bool) : (s.setMode b).polarity = s.polarity := rfl
@[simp] theorem State.setMode_maxCorr (s : State) (b : Bool) : (s.setMode b).maxCorr = s.maxCorr := rfl
@[simp] theorem State.setMode_newStart (s : State) (b : Bool) : (s.setMode b).newStart = s.newStart := rfl
@[simp] theorem State.setMode_bitStart (s : State) (b : Bool) : (s.setMode b).bitStart = s.bitStart := rfl
@[simp] theorem State.setMode_ovs (s : State) (b : Bool) : (s.setMode b).ovs = b := rfl
@[simp] theorem State.setMode_ctl (s : State) (b : Bool) : (s.setMode b).ctl = s.ctl := rfl
@[simp] theorem State.setMode_err (s : State) (b : Bool) : (s.setMode b).err = s.err := rfl
@[simp] theorem State.setMode_out (s : State) (b : Bool) : (s.setMode b).out = s.out := rfl
@[simp] theorem State.setMode_input (s : State) (b : Bool) : (s.setMode b).input = s.input := rfl

/-! The fields after `ctl <- DONE` (R235). -/

@[simp] theorem State.toDone_cfg (s : State) : (s.toDone).cfg = s.cfg := rfl
@[simp] theorem State.toDone_buf (s : State) : (s.toDone).buf = s.buf := rfl
@[simp] theorem State.toDone_p (s : State) : (s.toDone).p = s.p := rfl
@[simp] theorem State.toDone_pos (s : State) : (s.toDone).pos = s.pos := rfl
@[simp] theorem State.toDone_hdr (s : State) : (s.toDone).hdr = s.hdr := rfl
@[simp] theorem State.toDone_polarity (s : State) : (s.toDone).polarity = s.polarity := rfl
@[simp] theorem State.toDone_maxCorr (s : State) : (s.toDone).maxCorr = s.maxCorr := rfl
@[simp] theorem State.toDone_newStart (s : State) : (s.toDone).newStart = s.newStart := rfl
@[simp] theorem State.toDone_bitStart (s : State) : (s.toDone).bitStart = s.bitStart := rfl
@[simp] theorem State.toDone_ovs (s : State) : (s.toDone).ovs = s.ovs := rfl
@[simp] theorem State.toDone_ctl (s : State) : (s.toDone).ctl = .done := rfl
@[simp] theorem State.toDone_err (s : State) : (s.toDone).err = s.err := rfl
@[simp] theorem State.toDone_out (s : State) : (s.toDone).out = s.out := rfl
@[simp] theorem State.toDone_input (s : State) : (s.toDone).input = s.input := rfl

/-! The fields after a reset (R291). -/

@[simp] theorem State.resetWith_cfg (c : Config) : (State.resetWith c).cfg = c := rfl
@[simp] theorem State.resetWith_buf (c : Config) : (State.resetWith c).buf = [] := rfl
@[simp] theorem State.resetWith_p (c : Config) : (State.resetWith c).p = 0 := rfl
@[simp] theorem State.resetWith_pos (c : Config) : (State.resetWith c).pos = 0 := rfl
@[simp] theorem State.resetWith_hdr (c : Config) : (State.resetWith c).hdr = 0 := rfl
@[simp] theorem State.resetWith_polarity (c : Config) : (State.resetWith c).polarity = .plus := rfl
@[simp] theorem State.resetWith_maxCorr (c : Config) : (State.resetWith c).maxCorr = 0 := rfl
@[simp] theorem State.resetWith_newStart (c : Config) : (State.resetWith c).newStart = 0 := rfl
@[simp] theorem State.resetWith_bitStart (c : Config) : (State.resetWith c).bitStart = ringIdx c.ringSize (c.len 0 - 1) := rfl
@[simp] theorem State.resetWith_ovs (c : Config) : (State.resetWith c).ovs = false := rfl
@[simp] theorem State.resetWith_ctl (c : Config) : (State.resetWith c).ctl = if c.Legal then .idle else .fault := rfl
@[simp] theorem State.resetWith_err (c : Config) : (State.resetWith c).err = if c.Legal then errNone else errConfig := rfl
@[simp] theorem State.resetWith_out (c : Config) : (State.resetWith c).out = [] := rfl
@[simp] theorem State.resetWith_input (c : Config) : (State.resetWith c).input = [] := rfl

@[simp] theorem State.assertReset_cfg (s : State) : s.assertReset.cfg = s.cfg := rfl
@[simp] theorem State.assertReset_buf (s : State) : s.assertReset.buf = [] := rfl
@[simp] theorem State.assertReset_p (s : State) : s.assertReset.p = 0 := rfl
@[simp] theorem State.assertReset_pos (s : State) : s.assertReset.pos = 0 := rfl
@[simp] theorem State.assertReset_hdr (s : State) : s.assertReset.hdr = 0 := rfl
@[simp] theorem State.assertReset_polarity (s : State) : s.assertReset.polarity = .plus := rfl
@[simp] theorem State.assertReset_maxCorr (s : State) : s.assertReset.maxCorr = 0 := rfl
@[simp] theorem State.assertReset_newStart (s : State) : s.assertReset.newStart = 0 := rfl
@[simp] theorem State.assertReset_bitStart (s : State) : s.assertReset.bitStart = ringIdx s.cfg.ringSize (s.cfg.len 0 - 1) := rfl
@[simp] theorem State.assertReset_ovs (s : State) : s.assertReset.ovs = false := rfl
@[simp] theorem State.assertReset_ctl (s : State) : s.assertReset.ctl = if s.cfg.Legal then .idle else .fault := rfl
@[simp] theorem State.assertReset_err (s : State) : s.assertReset.err = if s.cfg.Legal then errNone else errConfig := rfl
@[simp] theorem State.assertReset_out (s : State) : s.assertReset.out = [] := rfl
@[simp] theorem State.assertReset_input (s : State) : s.assertReset.input = s.input := rfl

/-- A ring index of this block is in `0..B-1` (R52). -/
theorem State.idx_lt (s : State) (i : Int) (h : 0 < s.cfg.ringSize) : s.idx i < s.cfg.ringSize := ringIdx_lt _ _ h

/-! The control state and the error code after a reset, by the legality of the configuration (R293). -/

theorem State.resetWith_ctl_of_legal (c : Config) (h : c.Legal) : (State.resetWith c).ctl = .idle := if_pos h
theorem State.resetWith_err_of_legal (c : Config) (h : c.Legal) : (State.resetWith c).err = errNone := if_pos h
theorem State.resetWith_ctl_of_not_legal (c : Config) (h : ¬ c.Legal) : (State.resetWith c).ctl = .fault :=
  if_neg h
theorem State.resetWith_err_of_not_legal (c : Config) (h : ¬ c.Legal) : (State.resetWith c).err = errConfig :=
  if_neg h

end Sys2Proof.Machine
end

