-- ==== Sys2Proof/Laws/Emitter.lean ====
section
/-! SUPPORT. What EMIT_STEP can do: it emits one unit, or nothing; and what it never writes. -/

namespace Sys2Proof.Machine

/-- Everything an emitter step can do (R216). -/
theorem State.emitStep_cases (s : State) :
    (s.due ∧ s.emitStep = s.emitUnit) ∨ (¬ s.due ∧ s.emitStep = s) := by
  by_cases h : s.due
  · exact .inl ⟨h, if_pos h⟩
  · exact .inr ⟨h, if_neg h⟩

@[simp] theorem State.emitStep_cfg (s : State) : s.emitStep.cfg = s.cfg := by unfold State.emitStep; split <;> rfl
@[simp] theorem State.emitStep_buf (s : State) : s.emitStep.buf = s.buf := by unfold State.emitStep; split <;> rfl
@[simp] theorem State.emitStep_p (s : State) : s.emitStep.p = s.p := by unfold State.emitStep; split <;> rfl
@[simp] theorem State.emitStep_pos (s : State) : s.emitStep.pos = s.pos := by unfold State.emitStep; split <;> rfl
@[simp] theorem State.emitStep_hdr (s : State) : s.emitStep.hdr = s.hdr := by unfold State.emitStep; split <;> rfl
@[simp] theorem State.emitStep_polarity (s : State) : s.emitStep.polarity = s.polarity := by
  unfold State.emitStep; split <;> rfl
@[simp] theorem State.emitStep_maxCorr (s : State) : s.emitStep.maxCorr = s.maxCorr := by
  unfold State.emitStep; split <;> rfl
@[simp] theorem State.emitStep_newStart (s : State) : s.emitStep.newStart = s.newStart := by
  unfold State.emitStep; split <;> rfl
@[simp] theorem State.emitStep_ovs (s : State) : s.emitStep.ovs = s.ovs := by unfold State.emitStep; split <;> rfl
@[simp] theorem State.emitStep_ctl (s : State) : s.emitStep.ctl = s.ctl := by unfold State.emitStep; split <;> rfl
@[simp] theorem State.emitStep_err (s : State) : s.emitStep.err = s.err := by unfold State.emitStep; split <;> rfl
@[simp] theorem State.emitStep_input (s : State) : s.emitStep.input = s.input := by
  unfold State.emitStep; split <;> rfl

theorem State.emitStep_out (s : State) :
    s.emitStep.out = if s.due then s.out ++ List.replicate s.ospb s.unitByte else s.out := by
  unfold State.emitStep; split <;> rfl

theorem State.emitStep_bitStart (s : State) :
    s.emitStep.bitStart = if s.due then s.idx ((s.bitStart : Int) + s.cfg.spb) else s.bitStart := by
  unfold State.emitStep; split <;> rfl

@[simp] theorem State.periodCells_length (s : State) : s.periodCells.length = s.cfg.spb := by
  simp [State.periodCells]

end Sys2Proof.Machine
end

