-- ==== Sys2Proof/Laws/Templates.lean ====
section
/-! SUPPORT. The laws of the expanded templates: their length and their values. -/

namespace Sys2Proof

theorem bitVal_eq (b : Bool) : bitVal b = 1 ∨ bitVal b = -1 := by
  cases b <;> simp [bitVal]

theorem bitVal_sq (b : Bool) : bitVal b ^ 2 = 1 := by
  cases b <;> rfl

@[simp] theorem Config.tv_length (c : Config) (k : HeaderIndex) : (c.tv k).length = c.len k := by
  simp [Config.tv]

/-- Every template value is +1 or -1 (R132). -/
theorem Config.tv_sq (c : Config) (k : HeaderIndex) : ∀ v ∈ c.tv k, v ^ 2 = 1 := by
  intro v hv
  obtain ⟨i, -, rfl⟩ := List.mem_map.mp hv
  exact bitVal_sq _

theorem templateSum_nil : templateSum [] = 0 := rfl

theorem templateSum_cons (v : Int) (t : List Int) : templateSum (v :: t) = v + templateSum t := rfl

/-- The square of `sd_t` is positive: it is floored (R136). -/
theorem templateSdSq_pos (t : List Int) : 0 < templateSdSq t :=
  lt_max_of_lt_right (by norm_num [sdFloor])

end Sys2Proof
end

