-- ==== Sys2Proof/Laws/Correlation.lean ====
section
/-! SUPPORT. The laws of the window sums and of the score's representation. -/

namespace Sys2Proof.Machine

theorem windowSum_nil : windowSum [] = 0 := rfl

theorem windowSum_cons (x : Byte) (w : List Byte) : windowSum (x :: w) = sampleVal x + windowSum w := rfl

theorem windowSqSum_nil : windowSqSum [] = 0 := rfl

theorem windowSqSum_cons (x : Byte) (w : List Byte) :
    windowSqSum (x :: w) = sampleVal x ^ 2 + windowSqSum w := rfl

theorem crossSum_nil (t : List Int) : crossSum [] t = 0 := by cases t <;> rfl

theorem crossSum_cons (x : Byte) (w : List Byte) (v : Int) (t : List Int) :
    crossSum (x :: w) (v :: t) = sampleVal x * v + crossSum w t := rfl

theorem sampleVal_nonneg (x : Byte) : 0 ≤ sampleVal x := Int.natCast_nonneg _

theorem sampleVal_le (x : Byte) : sampleVal x ≤ 255 := by
  have := x.isLt
  unfold sampleVal
  omega

@[simp] theorem State.win_length (s : State) (i : Int) (n : Nat) : (s.win i n).length = n := by
  simp [State.win]

/-- The square of `sd` is positive: it is floored (R104). -/
theorem windowSdSq_pos (w : List Byte) : 0 < windowSdSq w :=
  lt_max_of_lt_right (by norm_num [sdFloor])

/-- The denominator of SCORE is never zero (R150). -/
theorem scoreDenSq_pos (w : List Byte) (t : List Int) : 0 < scoreDenSq w t :=
  mul_pos (windowSdSq_pos w) (templateSdSq_pos t)

theorem ratSign_cases (x : ℚ) :
    (0 < x ∧ ratSign x = 1) ∨ (x < 0 ∧ ratSign x = -1) ∨ (x = 0 ∧ ratSign x = 0) := by
  unfold ratSign
  rcases lt_trichotomy x 0 with h | h | h
  · exact .inr (.inl ⟨h, by rw [if_neg (not_lt.mpr h.le), if_pos h]⟩)
  · exact .inr (.inr ⟨h, by simp [h]⟩)
  · exact .inl ⟨h, if_pos h⟩

/-- The sign part of a score is -1, 0 or +1 (R157). -/
def Score.SignOk (v : Score) : Prop := v.sign = 1 ∨ v.sign = -1 ∨ v.sign = 0

theorem scoreOf_sq_nonneg (w : List Byte) (t : List Int) : 0 ≤ (scoreOf w t).sq :=
  div_nonneg (sq_nonneg _) (scoreDenSq_pos w t).le

theorem scoreOf_signOk (w : List Byte) (t : List Int) : (scoreOf w t).SignOk := by
  rcases ratSign_cases (scoreNum w t) with h | h | h
  · exact .inl h.2
  · exact .inr (.inl h.2)
  · exact .inr (.inr h.2)

theorem Score.SignOk.abs {v : Score} (h : v.SignOk) : v.abs.SignOk := by
  rcases h with h | h | h <;> simp [Score.SignOk, Score.abs, h]

theorem Score.SignOk.withPolarity {v : Score} (h : v.SignOk) (pol : Polarity) : (v.withPolarity pol).SignOk := by
  rcases h with h | h | h <;> cases pol <;> simp [Score.SignOk, Score.withPolarity, Polarity.sign, h]

@[simp] theorem Score.abs_sq (v : Score) : v.abs.sq = v.sq := rfl

@[simp] theorem Score.withPolarity_sq (v : Score) (pol : Polarity) : (v.withPolarity pol).sq = v.sq := rfl

/-- A signed square is at most the square (R157). -/
theorem Score.SignOk.signedSq_le {v : Score} (h : v.SignOk) (hq : 0 ≤ v.sq) : v.signedSq ≤ v.sq := by
  unfold Score.signedSq
  rcases h with h | h | h <;> rw [h] <;> push_cast <;> linarith

/-- A score with a positive signed square has that square (R157). -/
theorem Score.SignOk.signedSq_eq {v : Score} (h : v.SignOk) (hq : 0 ≤ v.sq) (hp : 0 < v.signedSq) :
    v.signedSq = v.sq := by
  unfold Score.signedSq at *
  rcases h with h | h | h <;> rw [h] at hp ⊢ <;> push_cast at * <;> linarith

/-- `corr` has the square of the score it is formed from (R174). -/
theorem State.corr_sq (s : State) :
    s.corr.sq = (s.score (s.idx ((s.p : Int) - s.cfg.len s.hdr)) s.hdr).sq := by
  unfold State.corr
  split <;> rfl

theorem State.corr_sq_nonneg (s : State) : 0 ≤ s.corr.sq := by
  rw [State.corr_sq]
  exact scoreOf_sq_nonneg _ _

theorem State.corr_signOk (s : State) : s.corr.SignOk := by
  unfold State.corr
  split
  · exact (scoreOf_signOk _ _).abs
  · exact (scoreOf_signOk _ _).withPolarity _

/-- Above the threshold, what is recorded as the new best is above it too (R175). -/
theorem State.thres_lt_corr_sq (s : State) (h : s.corr.aboveThres) : thres ^ 2 < s.corr.sq := by
  have hp : 0 < s.corr.signedSq := lt_trans (by norm_num [thres]) h
  rw [← s.corr_signOk.signedSq_eq s.corr_sq_nonneg hp]
  exact h

end Sys2Proof.Machine
end

