-- ==== Sys2Proof/Laws/Tracker.lean ====
section
/-! SUPPORT. What COMMIT, TRACK_STEP can do: each field after a commit, and the six cases of a tracker step. -/

namespace Sys2Proof.Machine

theorem State.commit_main (s : State) (h : s.hdr = 0) : s.commit = s.anchorMain.clockUpdate.advanceHdr := by
  rw [State.commit, if_pos h]

theorem State.commit_field (s : State) (h : s.hdr ≠ 0) : s.commit = s.clockUpdate.advanceHdr := by
  rw [State.commit, if_neg h]

@[simp] theorem State.commit_cfg (s : State) : s.commit.cfg = s.cfg := by unfold State.commit; split <;> rfl
@[simp] theorem State.commit_buf (s : State) : s.commit.buf = s.buf := by unfold State.commit; split <;> rfl
@[simp] theorem State.commit_p (s : State) : s.commit.p = s.p := by unfold State.commit; split <;> rfl
@[simp] theorem State.commit_newStart (s : State) : s.commit.newStart = s.newStart := by
  unfold State.commit; split <;> rfl
@[simp] theorem State.commit_ovs (s : State) : s.commit.ovs = s.ovs := by unfold State.commit; split <;> rfl
@[simp] theorem State.commit_ctl (s : State) : s.commit.ctl = s.ctl := by unfold State.commit; split <;> rfl
@[simp] theorem State.commit_err (s : State) : s.commit.err = s.err := by unfold State.commit; split <;> rfl
@[simp] theorem State.commit_out (s : State) : s.commit.out = s.out := by unfold State.commit; split <;> rfl
@[simp] theorem State.commit_input (s : State) : s.commit.input = s.input := by
  unfold State.commit; split <;> rfl
@[simp] theorem State.commit_hdr (s : State) : s.commit.hdr = s.hdr + 1 := by unfold State.commit; split <;> rfl
@[simp] theorem State.commit_maxCorr (s : State) : s.commit.maxCorr = 0 := by unfold State.commit; split <;> rfl
@[simp] theorem State.commit_bitStart (s : State) : s.commit.bitStart = s.clockUpdate.bitStart := by
  unfold State.commit; split <;> rfl
theorem State.commit_pos (s : State) : s.commit.pos = if s.hdr = 0 then 0 else s.pos := by
  unfold State.commit; split <;> rfl
theorem State.commit_polarity (s : State) :
    s.commit.polarity = if s.hdr = 0 then s.polarityFix.polarity else s.polarity := by
  unfold State.commit; split <;> rfl

/-- Everything a tracker step can do (R185). -/
theorem State.trackStep_cases (s : State) :
    (gate s.cfg s.hdr s.pos ∧ s.corr.aboveThres ∧ s.maxCorr < s.corr.signedSq ∧
      s.trackStep = s.recordBest s.corr) ∨
    (gate s.cfg s.hdr s.pos ∧ s.corr.aboveThres ∧ ¬ s.maxCorr < s.corr.signedSq ∧ s.trackStep = s) ∨
    (gate s.cfg s.hdr s.pos ∧ ¬ s.corr.aboveThres ∧ s.tracking ∧ s.trackStep = s.commit) ∨
    (gate s.cfg s.hdr s.pos ∧ ¬ s.corr.aboveThres ∧ ¬ s.tracking ∧ s.trackStep = s) ∨
    (¬ gate s.cfg s.hdr s.pos ∧ forceDue s.cfg s.hdr s.pos ∧ s.trackStep = s.advanceHdr) ∨
    (¬ gate s.cfg s.hdr s.pos ∧ ¬ forceDue s.cfg s.hdr s.pos ∧ s.trackStep = s) := by
  by_cases hg : gate s.cfg s.hdr s.pos
  · have e : s.trackStep = s.gatedStep := by rw [State.trackStep, if_pos hg]
    rw [e]
    by_cases ha : s.corr.aboveThres
    · by_cases hm : s.maxCorr < s.corr.signedSq
      · exact .inl ⟨hg, ha, hm, by rw [State.gatedStep, if_pos ha, if_pos hm]⟩
      · exact .inr (.inl ⟨hg, ha, hm, by rw [State.gatedStep, if_pos ha, if_neg hm]⟩)
    · by_cases ht : s.tracking
      · exact .inr (.inr (.inl ⟨hg, ha, ht, by rw [State.gatedStep, if_neg ha, if_pos ht]⟩))
      · exact .inr (.inr (.inr (.inl ⟨hg, ha, ht, by rw [State.gatedStep, if_neg ha, if_neg ht]⟩)))
  · by_cases hf : forceDue s.cfg s.hdr s.pos
    · exact .inr (.inr (.inr (.inr (.inl ⟨hg, hf, by rw [State.trackStep, if_neg hg, if_pos hf]⟩))))
    · exact .inr (.inr (.inr (.inr (.inr ⟨hg, hf, by rw [State.trackStep, if_neg hg, if_neg hf]⟩))))

/-! The same six cases, each from its conditions. -/

theorem State.trackStep_of_best (s : State) (g : gate s.cfg s.hdr s.pos) (a : s.corr.aboveThres)
    (m : s.maxCorr < s.corr.signedSq) : s.trackStep = s.recordBest s.corr := by
  rw [State.trackStep, if_pos g, State.gatedStep, if_pos a, if_pos m]

theorem State.trackStep_of_noBetter (s : State) (g : gate s.cfg s.hdr s.pos) (a : s.corr.aboveThres)
    (m : ¬ s.maxCorr < s.corr.signedSq) : s.trackStep = s := by
  rw [State.trackStep, if_pos g, State.gatedStep, if_pos a, if_neg m]

theorem State.trackStep_of_passed (s : State) (g : gate s.cfg s.hdr s.pos) (a : ¬ s.corr.aboveThres)
    (m : s.tracking) : s.trackStep = s.commit := by
  rw [State.trackStep, if_pos g, State.gatedStep, if_neg a, if_pos m]

theorem State.trackStep_of_searching (s : State) (g : gate s.cfg s.hdr s.pos) (a : ¬ s.corr.aboveThres)
    (m : ¬ s.tracking) : s.trackStep = s := by
  rw [State.trackStep, if_pos g, State.gatedStep, if_neg a, if_neg m]

/-- The gate and rule 5 exclude each other (R182). -/
theorem gate_not_forceDue (c : Config) (k : HeaderIndex) (pos : Nat) (f : forceDue c k pos) : ¬ gate c k pos := by
  obtain ⟨h0, h⟩ := f
  unfold gate
  rw [if_neg h0, abs_le]
  omega

theorem State.trackStep_of_forceDue (s : State) (f : forceDue s.cfg s.hdr s.pos) : s.trackStep = s.advanceHdr := by
  rw [State.trackStep, if_neg (gate_not_forceDue _ _ _ f), if_pos f]

/-- Before its gate opens, a header neither gates nor is forced on (R183). -/
theorem State.trackStep_of_early (s : State) (h : (s.pos : Int) < s.cfg.off s.hdr - s.cfg.spb) :
    s.trackStep = s := by
  rw [State.trackStep, if_neg, if_neg]
  · rintro ⟨-, h2⟩
    omega
  · unfold gate
    split
    · next e => rw [e] at h; omega
    · rw [abs_le]; omega

/-- What TRACK_STEP never writes (R170, R185). -/
theorem State.trackStep_frame (s : State) :
    s.trackStep.cfg = s.cfg ∧ s.trackStep.buf = s.buf ∧ s.trackStep.p = s.p ∧ s.trackStep.ovs = s.ovs ∧
    s.trackStep.ctl = s.ctl ∧ s.trackStep.err = s.err ∧ s.trackStep.out = s.out ∧ s.trackStep.input = s.input := by
  rcases s.trackStep_cases with h | h | h | h | h | h <;>
    (obtain ⟨-, -, h⟩ := h; first | (obtain ⟨-, h⟩ := h; simp [h]) | simp [h])

@[simp] theorem State.trackStep_cfg (s : State) : s.trackStep.cfg = s.cfg := s.trackStep_frame.1
@[simp] theorem State.trackStep_buf (s : State) : s.trackStep.buf = s.buf := s.trackStep_frame.2.1
@[simp] theorem State.trackStep_p (s : State) : s.trackStep.p = s.p := s.trackStep_frame.2.2.1
@[simp] theorem State.trackStep_ovs (s : State) : s.trackStep.ovs = s.ovs := s.trackStep_frame.2.2.2.1
@[simp] theorem State.trackStep_ctl (s : State) : s.trackStep.ctl = s.ctl := s.trackStep_frame.2.2.2.2.1
@[simp] theorem State.trackStep_err (s : State) : s.trackStep.err = s.err := s.trackStep_frame.2.2.2.2.2.1
@[simp] theorem State.trackStep_out (s : State) : s.trackStep.out = s.out := s.trackStep_frame.2.2.2.2.2.2.1
@[simp] theorem State.trackStep_input (s : State) : s.trackStep.input = s.input :=
  s.trackStep_frame.2.2.2.2.2.2.2

end Sys2Proof.Machine
end

