-- ==== Sys2Proof/Laws/Commands.lean ====
section
/-! SUPPORT. What the four commands and a step can do: one inversion lemma each. -/

namespace Sys2Proof.Machine

theorem State.stopReason_accepting (s : State) (h : s.accepting) : s.stopReason = none := by
  rcases h with h | h <;> simp [State.stopReason, h]

theorem State.accepting_of_stopReason (s : State) (h : s.stopReason = none) : s.accepting := by
  unfold State.stopReason at h
  unfold State.accepting
  split at h <;> simp_all

theorem State.whenAccepting_of_accepting (s t : State) (h : s.accepting) : s.whenAccepting t = .next t := by
  simp [State.whenAccepting, s.stopReason_accepting h]

/-- An accepted command ends in its own next state, and only in IDLE or RUN (R230). -/
theorem State.whenAccepting_next (s t u : State) (h : s.whenAccepting t = .next u) : s.accepting ∧ u = t := by
  unfold State.whenAccepting at h
  split at h
  · next e => cases h; exact ⟨s.accepting_of_stopReason e, rfl⟩
  · cases h

/-! What SAMPLE_STEP never writes, and the ring write it makes (R237). -/

@[simp] theorem State.sampleStep_cfg (s : State) (x : Byte) : (s.sampleStep x).cfg = s.cfg := by
  simp [State.sampleStep]
@[simp] theorem State.sampleStep_buf (s : State) (x : Byte) :
    (s.sampleStep x).buf = s.buf.write (s.idx s.p) x := by simp [State.sampleStep]
@[simp] theorem State.sampleStep_p (s : State) (x : Byte) : (s.sampleStep x).p = s.idx (s.p + 1) := by
  simp [State.sampleStep]
@[simp] theorem State.sampleStep_ovs (s : State) (x : Byte) : (s.sampleStep x).ovs = s.ovs := by
  simp [State.sampleStep]
@[simp] theorem State.sampleStep_ctl (s : State) (x : Byte) : (s.sampleStep x).ctl = s.ctl := by
  simp [State.sampleStep]
@[simp] theorem State.sampleStep_err (s : State) (x : Byte) : (s.sampleStep x).err = s.err := by
  simp [State.sampleStep]
@[simp] theorem State.sampleStep_input (s : State) (x : Byte) : (s.sampleStep x).input = s.input := by
  simp [State.sampleStep]

/-- Everything a command can do (R233 to R236): it is accepted, and its next state is the meaning's. -/
theorem exec_next_cases (i : Instr) (s t : State) (h : exec i s = .next t) :
    s.accepting ∧
    ((∃ x, i = .push x ∧ t = s.toRun.sampleStep x) ∨
     (∃ ovs, i = .setmode ovs ∧ s.ctl = .idle ∧ t = s.setMode ovs) ∨
     (∃ ovs, i = .setmode ovs ∧ s.ctl ≠ .idle ∧ t = s.raiseFault errModeLate) ∨
     (i = .eos ∧ t = s.toDone) ∨
     (∃ w, i = .illegal w ∧ t = s.raiseFault errIllegalCmd)) := by
  cases i with
  | push x =>
    obtain ⟨ha, e⟩ := s.whenAccepting_next _ _ h
    exact ⟨ha, .inl ⟨x, rfl, e⟩⟩
  | setmode ovs =>
    obtain ⟨ha, e⟩ := s.whenAccepting_next _ _ h
    by_cases hc : s.ctl = .idle
    · exact ⟨ha, .inr (.inl ⟨ovs, rfl, hc, by simpa [hc] using e⟩)⟩
    · exact ⟨ha, .inr (.inr (.inl ⟨ovs, rfl, hc, by simpa [hc] using e⟩))⟩
  | eos =>
    obtain ⟨ha, e⟩ := s.whenAccepting_next _ _ h
    exact ⟨ha, .inr (.inr (.inr (.inl ⟨rfl, e⟩)))⟩
  | illegal w =>
    obtain ⟨ha, e⟩ := s.whenAccepting_next _ _ h
    exact ⟨ha, .inr (.inr (.inr (.inr ⟨w, rfl, e⟩)))⟩

/-- Everything a step can do: a reset (R290), or an accepted command (R12, R231). -/
theorem step_next_cases (s t : State) (h : step s = .next t) :
    (∃ rest, s.input = .reset :: rest ∧ t = (State.resetWith s.cfg).consume rest) ∨
    (∃ w rest, s.input = .command w :: rest ∧ s.accepting ∧ exec (decode w) (s.consume rest) = .next t) := by
  unfold step State.accept at h
  split at h
  · next e =>
    split at e
    · next rest hi => cases e; cases h; exact .inl ⟨rest, hi, rfl⟩
    · split at e <;> cases e
    · cases e
  · next e =>
    split at e
    · cases e
    · next w rest hi =>
      split at e
      · next hs => cases e; exact .inr ⟨_, rest, hi, s.accepting_of_stopReason hs, h⟩
      · cases e
    · cases e
  · cases h

end Sys2Proof.Machine
end

