-- ==== Sys2Proof/Laws/AfterWrite.lean ====
section
/-! SUPPORT. The state that TRACK_STEP sees in an accepted PUSH, field by field, and the PUSH in its terms. -/

namespace Sys2Proof.Machine

@[simp] theorem State.afterWrite_cfg (s : State) (x : Byte) :
    (s.afterWrite x).cfg = s.cfg := rfl
@[simp] theorem State.afterWrite_buf (s : State) (x : Byte) :
    (s.afterWrite x).buf = s.buf.write (ringIdx s.cfg.ringSize s.p) x := rfl
@[simp] theorem State.afterWrite_p (s : State) (x : Byte) :
    (s.afterWrite x).p = ringIdx s.cfg.ringSize (s.p + 1) := rfl
@[simp] theorem State.afterWrite_pos (s : State) (x : Byte) :
    (s.afterWrite x).pos = min (s.pos + 1) posMax := rfl
@[simp] theorem State.afterWrite_hdr (s : State) (x : Byte) :
    (s.afterWrite x).hdr = s.hdr := rfl
@[simp] theorem State.afterWrite_polarity (s : State) (x : Byte) :
    (s.afterWrite x).polarity = s.polarity := rfl
@[simp] theorem State.afterWrite_maxCorr (s : State) (x : Byte) :
    (s.afterWrite x).maxCorr = s.maxCorr := rfl
@[simp] theorem State.afterWrite_newStart (s : State) (x : Byte) :
    (s.afterWrite x).newStart = s.newStart := rfl
@[simp] theorem State.afterWrite_bitStart (s : State) (x : Byte) :
    (s.afterWrite x).bitStart = s.bitStart := rfl
@[simp] theorem State.afterWrite_ovs (s : State) (x : Byte) :
    (s.afterWrite x).ovs = s.ovs := rfl
@[simp] theorem State.afterWrite_ctl (s : State) (x : Byte) :
    (s.afterWrite x).ctl = .run := rfl
@[simp] theorem State.afterWrite_err (s : State) (x : Byte) :
    (s.afterWrite x).err = s.err := rfl
@[simp] theorem State.afterWrite_out (s : State) (x : Byte) :
    (s.afterWrite x).out = s.out := rfl
@[simp] theorem State.afterWrite_input (s : State) (x : Byte) :
    (s.afterWrite x).input = s.input := rfl

@[simp] theorem State.afterWrite_idx (s : State) (x : Byte) (i : Int) : (s.afterWrite x).idx i = s.idx i := rfl

/-- A PUSH is TRACK_STEP and EMIT_STEP on the state after the write (R233, R237). -/
theorem State.push_afterWrite (s : State) (x : Byte) :
    s.toRun.sampleStep x = (s.afterWrite x).trackStep.emitStep := rfl

/-- Everything an executed PUSH can do (R233). -/
theorem execPush_next (s t : State) (x : Byte) (h : exec (.push x) s = .next t) :
    s.accepting ∧ t = (s.afterWrite x).trackStep.emitStep :=
  s.whenAccepting_next _ _ h

end Sys2Proof.Machine
end

