-- ==== Sys2Proof/Laws/Decode.lean ====
section
/-! SUPPORT. A word as its two fields, so that facts about decoding go field by field. -/

namespace Sys2Proof

/-- A word is its opcode field followed by its operand field (R70). -/
theorem word_eq_fields (w : Word) : w = opField w ++ operandField w := by
  apply BitVec.eq_of_getLsbD_eq
  intro i hi
  simp only [opField, operandField, BitVec.getLsbD_append, BitVec.getLsbD_extractLsb']
  by_cases h : i < 8
  · simp [h]
  · simp only [h, decide_false, Bool.false_and, if_false]
    rw [show 8 + (i - 8) = i by omega]
    simp only [show i - 8 < 8 by omega, decide_true, Bool.true_and]

/-- Masking acts on each field (R73 to R75). -/
theorem fields_and (h l a b : Byte) : (h ++ l : Word) &&& (a ++ b : Word) = (h &&& a) ++ (l &&& b) := by
  apply BitVec.eq_of_getLsbD_eq
  intro i hi
  simp only [BitVec.getLsbD_append, BitVec.getLsbD_and]
  split <;> rfl

@[simp] theorem opField_fields (h l : Byte) : opField (h ++ l) = h := by
  apply BitVec.eq_of_getLsbD_eq
  intro i hi
  have e := BitVec.getLsbD_append (x := h) (y := l) (i := 8 + i)
  simp only [opField, BitVec.getLsbD_extractLsb', hi, decide_true, Bool.true_and]
  simpa using e

@[simp] theorem operandField_fields (h l : Byte) : operandField (h ++ l) = l := by
  apply BitVec.eq_of_getLsbD_eq
  intro i hi
  have e := BitVec.getLsbD_append (x := h) (y := l) (i := i)
  simp only [operandField, BitVec.getLsbD_extractLsb', hi, decide_true, Bool.true_and, Nat.zero_add]
  simpa [hi] using e

/-- Two words are equal when both fields are. -/
theorem fields_inj (h l h' l' : Byte) : (h ++ l : Word) = h' ++ l' ↔ h = h' ∧ l = l' := by
  constructor
  · intro e
    exact ⟨by simpa using congrArg opField e, by simpa using congrArg operandField e⟩
  · rintro ⟨rfl, rfl⟩
    rfl

end Sys2Proof
end

