-- ==== Sys2Proof/Laws/Memory.lean ====
section
/-! SUPPORT. The laws of the ring's storage: what a read after a write gives, and that a write keeps the canonical
form and the range of the indices. -/

namespace Sys2Proof.Machine

@[simp] theorem Memory.read_nil (i : Nat) : Memory.read [] i = prefill := rfl

theorem Memory.read_cons (a : Nat) (b : Byte) (m : Memory) (i : Nat) :
    Memory.read ((a, b) :: m) i = if i = a then b else Memory.read m i := rfl

/-- An index that no entry names reads as the pre-fill. -/
theorem Memory.read_of_not_mem (m : Memory) (i : Nat) (h : ∀ cell ∈ m, cell.1 ≠ i) : m.read i = prefill := by
  induction m with
  | nil => rfl
  | cons cell rest ih =>
    obtain ⟨a, b⟩ := cell
    have ha : i ≠ a := fun e => h (a, b) (by simp) e.symm
    rw [Memory.read_cons, if_neg ha]
    exact ih fun c hc => h c (by simp [hc])

/-- A write leaves every other index as it was, in canonical form or not. -/
theorem Memory.read_write_other (m : Memory) (i j : Nat) (v : Byte) (h : j ≠ i) :
    (m.write i v).read j = m.read j := by
  induction m with
  | nil =>
    unfold Memory.write
    split <;> simp [Memory.read, h]
  | cons cell rest ih =>
    obtain ⟨a, b⟩ := cell
    unfold Memory.write
    split
    · split <;> simp [Memory.read, h]
    · split
      · next e => subst e; split <;> simp [Memory.read, h]
      · simp only [Memory.read_cons, ih]

/-- Every entry after a write is an old one or the one written. -/
theorem Memory.mem_write (m : Memory) (i : Nat) (v : Byte) (cell : Host.Cell) (h : cell ∈ m.write i v) :
    cell ∈ m ∨ (cell = (i, v) ∧ v ≠ prefill) := by
  induction m with
  | nil =>
    unfold Memory.write at h
    split at h
    · cases h
    · next hv => simp at h; exact .inr ⟨h, hv⟩
  | cons c rest ih =>
    obtain ⟨a, b⟩ := c
    unfold Memory.write at h
    split at h
    · split at h
      · exact .inl h
      · next hv =>
        rcases List.mem_cons.mp h with e | e
        · exact .inr ⟨e, hv⟩
        · exact .inl e
    · split at h
      · split at h
        · exact .inl (List.mem_cons_of_mem _ h)
        · next hv =>
          rcases List.mem_cons.mp h with e | e
          · exact .inr ⟨e, hv⟩
          · exact .inl (List.mem_cons_of_mem _ e)
      · rcases List.mem_cons.mp h with e | e
        · exact .inl (e ▸ List.mem_cons_self ..)
        · exact (ih e).imp (List.mem_cons_of_mem _) id

/-- A write keeps the canonical form. -/
theorem Memory.write_wf (m : Memory) (i : Nat) (v : Byte) (h : m.wf) : (m.write i v).wf := by
  refine ⟨?_, fun cell hc => ?_⟩
  · replace h := h.1
    induction m with
    | nil => unfold Memory.write; split <;> simp
    | cons c rest ih =>
      obtain ⟨a, b⟩ := c
      have hr := List.pairwise_cons.mp h
      unfold Memory.write
      split
      · next hlt =>
        split
        · exact h
        · refine List.pairwise_cons.mpr ⟨fun c hc => ?_, h⟩
          rcases List.mem_cons.mp hc with e | e
          · subst e; exact hlt
          · exact lt_trans hlt (hr.1 c e)
      · split
        · next e =>
          subst e
          split
          · exact hr.2
          · exact List.pairwise_cons.mpr ⟨hr.1, hr.2⟩
        · refine List.pairwise_cons.mpr ⟨fun c hc => ?_, ih hr.2⟩
          rcases Memory.mem_write rest i v c hc with e | ⟨e, _⟩
          · exact hr.1 c e
          · subst e; show a < i; omega
  · rcases Memory.mem_write m i v cell hc with e | ⟨e, hv⟩
    · exact h.2 cell e
    · subst e; exact hv

/-- In canonical form, a read after a write gives the byte written. -/
theorem Memory.read_write_same (m : Memory) (i : Nat) (v : Byte) (h : m.wf) : (m.write i v).read i = v := by
  replace h := h.1
  induction m with
  | nil =>
    unfold Memory.write
    split
    · next e => simp [e]
    · simp [Memory.read]
  | cons c rest ih =>
    obtain ⟨a, b⟩ := c
    have hr := List.pairwise_cons.mp h
    unfold Memory.write
    split
    · next hlt =>
      split
      · next e =>
        rw [e]
        refine Memory.read_of_not_mem _ _ fun c hc => ?_
        rcases List.mem_cons.mp hc with e | e
        · subst e; exact Nat.ne_of_gt hlt
        · exact Nat.ne_of_gt (lt_trans hlt (hr.1 c e))
      · simp [Memory.read]
    · split
      · next e =>
        subst e
        split
        · next e =>
          rw [e]
          exact Memory.read_of_not_mem _ _ fun c hc => Nat.ne_of_gt (hr.1 c hc)
        · simp [Memory.read]
      · next h1 h2 => rw [Memory.read_cons, if_neg h2]; exact ih hr.2

/-- A write at an index below `n` keeps every entry's index below `n`. -/
theorem Memory.write_idx_lt (m : Memory) (i n : Nat) (v : Byte) (hi : i < n) (h : ∀ cell ∈ m, cell.1 < n) :
    ∀ cell ∈ m.write i v, cell.1 < n := by
  intro cell hc
  rcases Memory.mem_write m i v cell hc with e | ⟨e, _⟩
  · exact h cell e
  · subst e; exact hi

/-- The empty memory, the ring at reset, is canonical. -/
theorem Memory.nil_wf : Memory.wf [] := by simp [Memory.wf]

/-- Two canonical memories that read alike are equal. -/
theorem Memory.ext_of_read (m n : Memory) (hm : m.wf) (hn : n.wf) (h : ∀ i, m.read i = n.read i) : m = n := by
  induction m generalizing n with
  | nil =>
    cases n with
    | nil => rfl
    | cons c rest =>
      obtain ⟨a, b⟩ := c
      have := h a
      simp only [Memory.read_nil, Memory.read_cons, if_true] at this
      exact absurd this.symm (hn.2 (a, b) (by simp))
  | cons c rest ih =>
    obtain ⟨a, b⟩ := c
    cases n with
    | nil =>
      have := h a
      simp only [Memory.read_nil, Memory.read_cons, if_true] at this
      exact absurd this (hm.2 (a, b) (by simp))
    | cons c' rest' =>
      obtain ⟨a', b'⟩ := c'
      have pm := List.pairwise_cons.mp hm.1
      have pn := List.pairwise_cons.mp hn.1
      have below : ∀ (x : Nat) (y : Byte) (r : Memory) (k : Nat), (∀ z ∈ r, x < z.1) → k < x →
          Memory.read ((x, y) :: r) k = prefill := by
        intro x y r k hr hk
        refine Memory.read_of_not_mem _ _ fun z hz => ?_
        rcases List.mem_cons.mp hz with e | e
        · subst e; exact Nat.ne_of_gt hk
        · exact Nat.ne_of_gt (lt_trans hk (hr z e))
      have haa : a = a' := by
        rcases Nat.lt_trichotomy a a' with l | e | l
        · have := h a
          rw [below a' b' rest' a pn.1 l, Memory.read_cons, if_pos rfl] at this
          exact absurd this (hm.2 (a, b) (by simp))
        · exact e
        · have := h a'
          rw [below a b rest a' pm.1 l, Memory.read_cons, if_pos rfl] at this
          exact absurd this.symm (hn.2 (a', b') (by simp))
      subst haa
      have hbb : b = b' := by simpa [Memory.read_cons] using h a
      subst hbb
      have hm' : Memory.wf rest := ⟨pm.2, fun z hz => hm.2 z (by simp [hz])⟩
      have hn' : Memory.wf rest' := ⟨pn.2, fun z hz => hn.2 z (by simp [hz])⟩
      rw [ih rest' hm' hn' fun i => ?_]
      by_cases hi : i = a
      · subst hi
        rw [Memory.read_of_not_mem _ _ fun z hz => Nat.ne_of_gt (pm.1 z hz),
          Memory.read_of_not_mem _ _ fun z hz => Nat.ne_of_gt (pn.1 z hz)]
      · simpa [Memory.read_cons, hi] using h i

end Sys2Proof.Machine
end

