-- ==== Sys2Proof/Laws/PerInstr.lean ====
section
/-! SUPPORT. Laws about every command as syntax, one lemma per constructor. -/

namespace Sys2Proof.Laws.EncodeRow

/-- A well-formed command's word matches the row of the opcode table that is its own, and no other of the three
rows with a pattern (R73 to R76). -/
def Statement (i : Instr) : Prop :=
  i.wf = true →
    matchesPush (encode i) = (match i with | .push _ => true | _ => false) ∧
    matchesSetmode (encode i) = (match i with | .setmode _ => true | _ => false) ∧
    matchesEos (encode i) = (match i with | .eos => true | _ => false)

theorem push (x : Byte) : Statement (.push x) := by
  intro _
  revert x
  decide

theorem setmode (ovs : Bool) : Statement (.setmode ovs) := by
  intro _
  revert ovs
  decide

theorem eos : Statement .eos := by
  intro _
  decide

theorem illegal (w : Word) : Statement (.illegal w) := by
  intro h
  simpa [Instr.wf, encode, and_assoc] using h

end Sys2Proof.Laws.EncodeRow
end

