-- ==== Sys2Proof/Tests/Slice0.lean ====
section
/-! SUPPORT. The model's own tests, each a named theorem on a small state, and a witness for every statement that
has hypotheses.  Expected values are those of 95_test_vectors.md (V-...), whose examples are named, or are worked out
by hand from the rule named. -/

namespace Sys2Proof.Machine.Tests

-- Each theorem is checked before the next is read: in parallel, their many small kernel evaluations ask for too many threads.
set_option Elab.async false

/-! ### Small configurations and states -/

/-- A legal configuration with one sample per bit: `B = 32`, the patterns of TC-A, `OFF = 0, 100, 100, ...`. -/
def small : Config where
  ringSize := 32
  spb := 1
  headers := [⟨[0x2D], 0⟩, ⟨[0x1E], 100⟩, ⟨[0xB1], 100⟩, ⟨[0x4B], 100⟩, ⟨[0x69], 100⟩, ⟨[0x87], 100⟩, ⟨[0xD2], 100⟩]

/-- A configuration whose only use is its header 0, as in the template and score vectors. -/
def single (spb : Nat) (bytes : List Byte) : Config where
  ringSize := 32
  spb := spb
  headers := [⟨bytes, 0⟩]

/-- A ring that holds `xs` at indices 0, 1, ... (no sample of `xs` is 128). -/
def ringOf (xs : List Byte) : Memory := xs.zipIdx.map fun cell => (cell.2, cell.1)

/-- A running block of configuration `c` that holds `xs` at indices 0, 1, ..., its head after them. -/
def running (c : Config) (xs : List Byte) : State :=
  { State.resetWith c with buf := ringOf xs, p := xs.length, pos := xs.length, ctl := .run }

/-- The window of V-SC1: the header 0x2D at amplitudes 192 and 64. -/
def mainHigh : List Byte := [192, 64, 192, 192, 64, 192, 64, 64]

/-- The window of V-SC2: V-SC1 inverted. -/
def mainLow : List Byte := [63, 191, 63, 63, 191, 63, 191, 191]

/-- A running block one sample short of the main header. -/
def almost : State := running small (mainHigh.take 7)

/-- A running block whose best match is the main header it holds, at indices 0 to 7. -/
def locked (xs : List Byte) : State := { running small xs with maxCorr := 1, newStart := 8 }

/-- A running block that searches for header 2, its ring holding only the pre-fill, at stream position `pos`. -/
def atField (pos : Nat) : State := { running small [] with hdr := 2, pos := pos }

/-- The same, tracking a peak. -/
def trackingField (pos : Nat) : State := { atField pos with maxCorr := 1, newStart := 20, bitStart := 20 }

/-- The block with one command word at its input. -/
def offering (s : State) (w : Word) : State := { s with input := [.command w] }

/-- The state after one step on the word, or the state itself where there is no next state. -/
def after (s : State) (w : Word) : State :=
  match step (offering s w) with
  | .next t => t
  | .fault _ => s
  | .refused _ => s

/-- The state after a PUSH of each sample. -/
def pushAll (s : State) (xs : List Byte) : State := xs.foldl (fun u x => u.toRun.sampleStep x) s

theorem runs (s t : State) (h : s.ctl = .idle ∨ s.ctl = .run) : ∃ u, s.whenAccepting t = .next u :=
  ⟨t, s.whenAccepting_of_accepting t h⟩

theorem reset_idle : State.reset.ctl = .idle := by decide +kernel

theorem pushRun_pushAll (xs : List Byte) :
    ∀ s : State, s.ctl = .idle ∨ s.ctl = .run → PushRun s xs (pushAll s xs) := by
  induction xs with
  | nil => intro s _; exact .nil s
  | cons x xs ih =>
    intro s h
    exact .cons s _ _ x xs (s.whenAccepting_of_accepting _ h) (ih _ (.inr (by simp [State.toRun])))

/-! ### Well-formedness: a term that each check refuses, and words it accepts -/

theorem test_wf_refuses_push_word : (Instr.illegal 0x0180).wf = false := by decide
theorem test_wf_refuses_setmode_word : (Instr.illegal 0x0201).wf = false := by decide
theorem test_wf_refuses_eos_word : (Instr.illegal 0x0300).wf = false := by decide
theorem test_wf_accepts_others : (Instr.illegal 0x0202).wf = true ∧ (Instr.illegal 0x0301).wf = true := by decide

/-! ### Decoding, each word written bit by bit from R73 to R76 -/

theorem test_decode_push : decode 0b00000001_11000000#16 = .push 192 := by decide
theorem test_decode_push_top : decode 0b00000001_11111111#16 = .push 255 := by decide
theorem test_decode_setmode_off : decode 0b00000010_00000000#16 = .setmode false := by decide
theorem test_decode_setmode_on : decode 0b00000010_00000001#16 = .setmode true := by decide
theorem test_decode_eos : decode 0b00000011_00000000#16 = .eos := by decide
theorem test_decode_illegal : decode 0b00000010_00000010#16 = .illegal 0x0202 := by decide
theorem test_decode_opcode_zero : decode 0b00000000_00000001#16 = .illegal 0x0001 := by decide
theorem test_encode_words :
    encode (.push 192) = 0x01C0 ∧ encode (.setmode true) = 0x0201 ∧ encode .eos = 0x0300 := by decide
theorem test_table_word : decodeTableWord 16 0x01C0 = some (.push 192) ∧ decodeTableWord 32 0x01C0 = none := by decide

/-! ### The assembler (R82, R83): P1's first line, and an operand out of range -/

theorem test_assemble_text :
    assemble 4 ("PUSHBITS 192, 64, \"10\" ; P1".toList ++ [Char.ofNat 10] ++ "EOS".toList) =
      some (List.replicate 4 0x01C0 ++ List.replicate 4 0x0140 ++ [0x0300]) := by decide +kernel
theorem test_assemble_range :
    assemble 4 "PUSH 256".toList = none ∧ assemble 4 "SETMODE 2".toList = none ∧
    assemble 4 ".word 0x0202".toList = some [0x0202] := by decide +kernel

/-! ### The ring (section 2.2) -/

theorem test_vb1_write_wraps :
    (({ State.reset with p := 127 } : State).writeSample 200).buf.read 127 = 200 ∧
    (({ State.reset with p := 127 } : State).writeSample 200).p = 0 := by decide
theorem test_write_prefill_is_canonical : Memory.write [(3, 7)] 3 128 = [] ∧ ¬ Memory.wf [(3, 128)] := by decide
theorem test_vb2_sgn :
    [0, 63, 64, 65, 127, 128, -1, -64, -65].map (sgnB 128) = [0, 63, 64, -63, -1, 0, -1, 64, 63] := by decide
theorem test_vb3_window_wraps :
    ({ State.reset with buf := [(0, 3), (1, 4), (126, 1), (127, 2)] } : State).win 126 4 = [1, 2, 3, 4] := by decide
theorem test_vb4_statistics :
    windowMean [64, 64, 192, 192] = 128 ∧ windowVar [64, 64, 192, 192] = 4096 ∧
    windowSdSq [64, 64, 192, 192] = 64 ^ 2 := by decide +kernel
theorem test_vb5_statistics : windowMean [0, 255] = 255 / 2 ∧ windowVar [0, 255] = 16256 + 1 / 4 := by decide +kernel
theorem test_vb6_floor : windowSdSq [7, 7, 7, 7] = (1 / 65536) ^ 2 := by decide +kernel
theorem test_vb7_least_variance :
    windowSum [5, 5, 5, 6] = 21 ∧ windowSqSum [5, 5, 5, 6] = 111 ∧ windowSdSq [5, 5, 5, 6] = 3 / 16 := by
  decide +kernel
theorem test_vb8_correlate : correlate mainHigh ((single 1 [0x2D]).tv 0) = 64 := by decide +kernel
theorem test_vb9_correlate : correlate (List.replicate 8 128) ((single 1 [0x01]).tv 0) = -96 := by decide +kernel
theorem test_vb10_dist :
    [9, 10, 72, 73].map ({ State.reset with p := 10 } : State).dist = [0, -1, -63, 64] := by decide

/-! ### Templates (section 2.3) -/

theorem test_vt1_bits :
    (List.range 8).map ((single 1 [0x2D]).hbit 0) = [true, false, true, true, false, true, false, false] := by decide
theorem test_vt3_two_bytes :
    (single 1 [0x01, 0x80]).tv 0 = [1, -1, -1, -1, -1, -1, -1, -1, -1, -1, -1, -1, -1, -1, -1, 1] ∧
    templateSum ((single 1 [0x01, 0x80]).tv 0) = -12 := by decide +kernel
theorem test_vt4_two_samples :
    (single 2 [0x2D]).tv 0 = [1, 1, -1, -1, 1, 1, 1, 1, -1, -1, 1, 1, -1, -1, -1, -1] ∧
    (single 2 [0x2D]).sdSqT 0 = 1 := by decide +kernel
theorem test_vt5_constant : (single 2 [0xFF]).meanT 0 = 1 ∧ (single 2 [0xFF]).sdSqT 0 = (1 / 65536) ^ 2 := by
  decide +kernel
theorem test_vt6_statistics : (single 2 [0x01]).meanT 0 = -3 / 4 ∧ (single 2 [0x01]).sdSqT 0 = 7 / 16 := by
  decide +kernel
theorem test_vt7_statistics : (single 2 [0x1F]).meanT 0 = 1 / 4 ∧ (single 2 [0x1F]).sdSqT 0 = 15 / 16 := by
  decide +kernel

/-! ### Scores (section 2.4) -/

/-- The score of a window against header 0x2D at one sample per bit. -/
def main (w : List Byte) : Score := scoreOf w (small.tv 0)

theorem test_vsc1 : main mainHigh = ⟨1, 1⟩ := by decide +kernel
theorem test_vsc2 : main mainLow = ⟨-1, 1⟩ ∧ ¬ (main mainLow).aboveThres ∧ (main mainLow).abs.aboveThres := by
  decide +kernel
theorem test_vsc3 : main [200, 64, 192, 192, 64, 192, 64, 64] = ⟨1, 4225 / 4231⟩ := by decide +kernel
theorem test_vsc4 :
    main [192, 64, 192, 64, 64, 192, 64, 64] = ⟨1, 3 / 5⟩ ∧
    ¬ (main [192, 64, 192, 64, 64, 192, 64, 64]).aboveThres := by decide +kernel
theorem test_vsc5 : main (List.replicate 8 128) = ⟨0, 0⟩ := by decide +kernel
theorem test_vsc6 : main [0, 255, 0, 0, 255, 0, 255, 255] = ⟨-1, 1⟩ := by decide +kernel
theorem test_vsc7 : main [64, 192, 64, 192, 192, 64, 192, 64] = ⟨-1, 1 / 4⟩ := by decide +kernel
theorem test_vsc8 : scoreOf [1, 2, 3, 4, 5, 6, 7, 8] ((single 1 [0xFF]).tv 0) = ⟨0, 0⟩ := by decide +kernel
theorem test_vtr6_threshold_is_strict : ¬ (⟨1, 16 / 25⟩ : Score).aboveThres := by decide +kernel

/-! ### The tracker (section 2.5) -/

theorem test_vtr3_gate : ¬ gate ⟨128, 4, [⟨[0x2D], 50⟩]⟩ 0 45 ∧ gate ⟨128, 4, [⟨[0x2D], 50⟩]⟩ 0 46 := by decide
theorem test_vtr1_gate_bounds :
    ¬ gate small 2 98 ∧ gate small 2 99 ∧ gate small 2 101 ∧ ¬ gate small 2 102 ∧ forceDue small 2 102 := by decide
theorem test_vtr5_corr :
    ((⟨-1, 81 / 100⟩ : Score).withPolarity .minus).signedSq = 81 / 100 ∧
    ((⟨1, 81 / 100⟩ : Score).withPolarity .minus).signedSq = -81 / 100 := by decide +kernel
theorem test_vtr7_header_wraps : ({ State.reset with hdr := 6 } : State).advanceHdr.hdr = 0 := by decide

/-- The result of CLOCK_UPDATE for `B = 128`. -/
def clock (spb bitStart newStart : Nat) : Nat :=
  ({ State.resetWith ⟨128, spb, []⟩ with bitStart := bitStart, newStart := newStart } : State).clockUpdate.bitStart

theorem test_clock_update_spb4 :
    clock 4 10 11 = 11 ∧ clock 4 10 12 = 8 ∧ clock 4 10 8 = 4 ∧ clock 4 127 0 = 0 ∧ clock 4 0 127 = 127 ∧
    clock 4 0 64 = 60 ∧ clock 4 0 65 = 61 := by decide +kernel
theorem test_clock_update_odd :
    clock 5 10 12 = 12 ∧ clock 5 10 13 = 8 ∧ clock 5 10 8 = 8 ∧ clock 5 10 7 = 2 ∧ clock 1 10 10 = 10 ∧
    clock 1 10 11 = 10 := by decide +kernel

/-! ### The emitter (section 2.6) -/

theorem test_ve1_due : ({ State.reset with p := 10, bitStart := 9 } : State).due := by decide
theorem test_ve2_not_due : ¬ ({ State.reset with p := 10, bitStart := 10 } : State).due := by decide
theorem test_ve5_rounds_up : roundedAvg 402 4 = 101 ∧ roundedAvg 1 4 = 0 ∧ roundedAvg 7 2 = 4 := by decide
theorem test_ve10_cells_wrap :
    ({ State.reset with buf := [(0, 12), (1, 11), (126, 14), (127, 13)], bitStart := 1 } : State).periodCells =
      [11, 12, 13, 14] := by decide
theorem test_ve4_inverts :
    ({ State.reset with buf := [(0, 192), (1, 192), (2, 64), (3, 192)], bitStart := 3, polarity := .minus } :
      State).unitByte = 95 := by decide
theorem test_ve12_oversampled :
    ({ State.reset with buf := [(0, 192), (1, 192), (2, 192), (3, 192)], bitStart := 3, ovs := true } :
      State).emitUnit.out = [192, 192, 192, 192] := by decide

/-! ### One step of each command (sections 2.1 and 2.7; R233's example) -/

theorem test_push_first : (after State.reset 0x01FF).buf = [(0, 255)] ∧ (after State.reset 0x01FF).p = 1 := by
  decide +kernel
/-- R100 with R291 puts the first sample at index 0 and leaves index 1, where R37's formula prints it (log entry 11). -/
theorem test_push_first_index :
    (after State.reset 0x01FF).buf.read 0 = 255 ∧ (after State.reset 0x01FF).buf.read 1 = 128 := by decide +kernel
theorem test_push_new_best : (after almost 0x0140).maxCorr = 1 ∧ (after almost 0x0140).newStart = 8 := by
  decide +kernel
theorem test_setmode_idle : (after State.reset 0x0201).ovs = true ∧ (after State.reset 0x0201).ctl = .idle := by
  decide +kernel
theorem test_vf1_setmode_late :
    (after (running small [5]) 0x0201).err = 3 ∧ (after (running small [5]) 0x0201).ovs = false := by decide +kernel
theorem test_eos : (after State.reset 0x0300).ctl = .done ∧ (after State.reset 0x0300).err = 0 := by decide +kernel
theorem test_vf3_ended : step (offering { State.reset with ctl := .done } 0x0180) = .fault .streamEnded := by rfl
theorem test_vf5_reserved_bit : (after State.reset 0x0202).err = 2 ∧ (after State.reset 0x0202).ovs = false := by
  decide +kernel
theorem test_vf2_faulted :
    step (offering { State.reset with ctl := .fault, err := 2 } 0x0300) = .fault (.errorState 2) := by rfl
theorem test_with_fetch_word : (State.reset.withFetchWord 16 0x01C0).input = [.command 0x01C0] := by decide

/-! ### Reset (V-F6 to V-F8) -/

theorem test_vf6_ring_too_small : (State.resetWith { Config.tcA with ringSize := 64 }).err = 1 := by decide +kernel
theorem test_vf7_header_too_long :
    (State.resetWith { Config.tcA with headers := ⟨[0x2D, 0x2D], 279⟩ :: Config.tcA.headers.tail }).ctl = .fault := by
  decide +kernel
theorem test_vf8_reset :
    State.reset.ctl = .idle ∧ State.reset.bitStart = 31 ∧ State.reset.buf.read 127 = 128 := by decide +kernel
theorem test_ring_not_power_of_two : ¬ ({ Config.tcA with ringSize := 127 } : Config).Legal := by decide +kernel
theorem test_offset_past_limit :
    ¬ ({ small with headers := small.headers.set 3 ⟨[0x4B], 4294967294⟩ } : Config).Legal ∧
    ({ small with headers := small.headers.set 3 ⟨[0x4B], 4294967293⟩ } : Config).Legal := by decide +kernel

/-! ### Witnesses: for each statement with hypotheses, a state and operands that meet them -/

theorem small_legal : small.Legal := by decide +kernel

theorem witness_DecodeEncodeRoundTrip :
    (Instr.illegal 0x0001).wf = true ∧ (Instr.push 128).wf = true ∧ (Instr.setmode true).wf = true ∧
    Instr.eos.wf = true := by decide

theorem witness_AssemblyLinesExpand :
    ((255 : Nat) < 256 ∧ (AsmLine.pushN 255 2).words 4 = some [0x01FF, 0x01FF]) ∧
    ((0 : Nat) < 256 ∧ (AsmLine.pushBits 0 255 [false]).words 1 = some [0x01FF]) := by decide

theorem witness_StepRunsTheDecodedWord :
    (offering State.reset 0x0180).ctl = .idle ∧ (offering State.reset 0x0180).input = .command 0x0180 :: [] ∧
    (offering almost 0x0300).ctl = .run := by decide +kernel

theorem witness_EndedFaultedAndWaitingTakeNoStep :
    ((offering { State.reset with ctl := .done } 0x0180).input = .command 0x0180 :: [] ∧
      (offering { State.reset with ctl := .done } 0x0180).ctl = .done) ∧
    (offering { State.reset with ctl := .fault, err := 2 } 0x0180).ctl = .fault ∧
    (State.reset.ctl = .idle ∧ State.reset.input = []) := by decide +kernel

theorem witness_OnlyResetLeavesDoneAndFault :
    ∃ t, step { State.reset with ctl := .done, input := [.reset] } = .next t := ⟨_, rfl⟩

theorem witness_ControlTransitions :
    (∃ t, exec (.push 1) State.reset = .next t) ∧ (∃ t, exec (.setmode true) State.reset = .next t) ∧
    (∃ t, exec (.setmode true) almost = .next t) ∧ (∃ t, exec .eos almost = .next t) ∧
    ∃ t, exec (.illegal 0) almost = .next t :=
  ⟨runs State.reset _ (.inl reset_idle), runs State.reset _ (.inl reset_idle), runs almost _ (.inr rfl),
    runs almost _ (.inr rfl), runs almost _ (.inr rfl)⟩

/-- Both control states in which a command is accepted. -/
theorem accepting_states : State.reset.ctl = .idle ∧ almost.ctl = .run := ⟨reset_idle, rfl⟩

theorem witness_PushCompletesAsSampleStep : State.reset.ctl = .idle ∧ almost.ctl = .run := accepting_states
theorem witness_SetmodeTakesEffectOnlyInIdle : State.reset.ctl = .idle ∧ almost.ctl = .run := accepting_states
theorem witness_EosEndsTheStream : State.reset.ctl = .idle ∧ almost.ctl = .run := accepting_states
theorem witness_IllegalWordFaults : State.reset.ctl = .idle ∧ almost.ctl = .run := accepting_states

theorem witness_DecodingDecidesTheErrorFirst :
    ((offering almost 0x0202).ctl = .run ∧ (offering almost 0x0202).input = .command 0x0202 :: [] ∧
      (0x0202 : Word) &&& 0xFF00 ≠ 0x0100 ∧ (0x0202 : Word) &&& 0xFFFE ≠ 0x0200 ∧ (0x0202 : Word) ≠ 0x0300) ∧
    (offering almost 0x0201).input = .command 0x0201 :: [] := by decide

theorem witness_ResetLeavesTheStatedValues : Config.tcA.Legal ∧ ¬ ({ Config.tcA with spb := 0 } : Config).Legal := by
  decide +kernel

theorem witness_ResetInAnyStateDiscardsTheRun :
    ({ almost with input := [.reset, .command 0x0180] } : State).input = .reset :: [.command 0x0180] := by decide

/-- A command step and a reset step. -/
theorem witness_ConfigurationAndTemplatesNeverChange :
    (∃ t, step (offering almost 0x0140) = .next t) ∧ ∃ t, step { almost with input := [.reset] } = .next t :=
  ⟨runs ((offering almost 0x0140).consume []) _ (.inr rfl), ⟨_, rfl⟩⟩

/-- A PUSH that commits header 0, and one that does not. -/
theorem witness_OnlyMainCommitClearsPosAndWritesPolarity :
    ((∃ t, exec (.push 128) (locked mainHigh) = .next t) ∧ (locked mainHigh).hdr = 0 ∧
      (after (locked mainHigh) 0x0180).hdr = 1) ∧
    (∃ t, exec (.push 64) almost = .next t) ∧ (after almost 0x0140).hdr = 0 :=
  ⟨⟨runs (locked mainHigh) _ (.inr rfl), rfl, by decide +kernel⟩, runs almost _ (.inr rfl), by decide +kernel⟩

theorem witness_PushFrame : ∃ t, exec (.push 64) almost = .next t := runs almost _ (.inr rfl)

/-- A PUSH that emits a unit, and one that does not. -/
theorem witness_OutputGrowsByAtMostOneUnit :
    ((∃ t, exec (.push 64) almost = .next t) ∧ (after almost 0x0140).out.length = 1) ∧
    (∃ t, exec (.push 64) State.reset = .next t) ∧ (after State.reset 0x0140).out = [] :=
  ⟨⟨runs almost _ (.inr rfl), by decide +kernel⟩, runs State.reset _ (.inl reset_idle), by decide +kernel⟩

/-- A PUSH that moves the header, and one that records a better best. -/
theorem witness_HeaderMovesByOneAndBestNeverDecreases :
    (∃ t, exec (.push 128) (locked mainHigh) = .next t) ∧ ∃ t, exec (.push 64) almost = .next t :=
  ⟨runs (locked mainHigh) _ (.inr rfl), runs almost _ (.inr rfl)⟩

theorem witness_ControlCommandsFrame :
    (∀ x, Instr.eos ≠ .push x) ∧ (∃ t, exec .eos almost = .next t) ∧
    (∀ x, Instr.setmode true ≠ .push x) ∧ ∃ t, exec (.setmode true) State.reset = .next t :=
  ⟨nofun, runs almost _ (.inr rfl), nofun, runs State.reset _ (.inl reset_idle)⟩

theorem witness_PushWritesTheRing :
    almost.ctl = .run ∧ almost.p < almost.cfg.ringSize ∧ almost.buf.wf ∧
    ({ almost with p := 31 } : State).p + 1 = almost.cfg.ringSize := by decide

theorem witness_SignedNormalization :
    (0 < 128 ∧ sgnB 128 64 = 64 ∧ sgnB 128 65 = -63) ∧ (0 < 1 ∧ sgnB 1 5 = 0) := by decide

theorem witness_WindowCellsAreDistinct :
    1 ≤ 32 ∧ 32 ≤ almost.cfg.ringSize ∧ 31 < 32 ∧
    ringIdx 32 (-1 + (31 : Nat)) = ringIdx 32 (-1 + (31 : Nat)) := by decide

/-- A ring of two cells after three samples, the oldest overwritten. -/
def wrapped : State := { running ⟨2, 1, []⟩ [3, 2] with p := 1, ctl := .run }

theorem witness_RingHoldsTheMostRecentSamples :
    0 < wrapped.cfg.ringSize ∧ wrapped.buf.wf ∧ wrapped.HoldsRecent [1, 2, 3] ∧
    ∃ t, exec (.push 9) wrapped = .next t := by
  refine ⟨by decide, by decide, ⟨by decide, ?_, ?_⟩, runs wrapped _ (.inr rfl)⟩
  · intro i h1 h2
    have h3 : i = 1 ∨ i = 2 := by
      simp [wrapped, running, State.resetWith] at h1 h2
      omega
    rcases h3 with rfl | rfl <;> decide
  · intro i h1 h2
    simp [wrapped, running, State.resetWith] at h1 h2
    omega

theorem witness_TemplateExpansion :
    0 < (small.header 0).bytes.length ∧ 7 < 8 ∧ 0 < small.spb ∧ (small.tv 0).getD ((8 * 0 + 7) * 1 + 0) 0 = -1 := by
  decide

theorem witness_WindowAndTemplateStatistics : 1 ≤ ([7] : List Byte).length := by decide

theorem witness_IntegerFormEqualsScore :
    mainHigh.length = (small.tv 0).length ∧ scoreIntForm mainHigh (small.tv 0) = ⟨1, 1⟩ := by decide +kernel

theorem witness_ScoreIsAtMostOne : mainHigh.length = small.len 0 := by decide

theorem witness_ConstantWindowOrHeaderScoresZero :
    ∀ j, j < 8 * (single 1 [0xFF]).nb 0 → (single 1 [0xFF]).hbit 0 j = true := by decide

/-- The windows of V-SC1, V-SC2 and V-SC6, the last with a scale and an offset that are no integers. -/
theorem witness_MatchingWindowScoresOne :
    small.len 0 ≤ 2 ^ 31 ∧ (1 : Int) ∈ small.tv 0 ∧ (-1 : Int) ∈ small.tv 0 ∧
    (mainHigh.map (fun x => (sampleVal x : ℚ)) = (small.tv 0).map (fun v => (64 : ℚ) * v + 128) ∧ (0 : ℚ) < 64) ∧
    (mainLow.map (fun x => (sampleVal x : ℚ)) = (small.tv 0).map (fun v => (-64 : ℚ) * v + 127) ∧ (-64 : ℚ) < 0) ∧
    (([0, 255, 0, 0, 255, 0, 255, 255] : List Byte).map (fun x => (sampleVal x : ℚ)) =
      (small.tv 0).map (fun v => (-255 / 2 : ℚ) * v + 255 / 2) ∧ (-255 / 2 : ℚ) < 0) := by decide +kernel

theorem witness_LeastNonZeroVariance :
    (∃ x ∈ ([5, 5, 5, 6] : List Byte), ∃ y ∈ ([5, 5, 5, 6] : List Byte), x ≠ y) ∧
    ([5, 5, 5, 6] : List Byte).length ≤ 2 ^ 31 := by decide

/-- Both kinds of header, and both polarities. -/
theorem witness_CorrIsFormedFromTheMostRecentWindow :
    (locked mainLow).hdr = 0 ∧ (locked mainLow).corr = ⟨1, 1⟩ ∧ (atField 99).hdr ≠ 0 ∧
    ({ atField 99 with polarity := .minus } : State).polarity = .minus := by decide +kernel

theorem witness_TrackerComparisonsAreExact : 0 ≤ (locked mainHigh).maxCorr ∧ 0 ≤ State.reset.maxCorr := by
  decide +kernel

theorem witness_GateBounds : (2 : HeaderIndex) ≠ 0 ∧ gate small 2 101 ∧ gate small 0 0 := by decide

theorem witness_AboveThresholdRecordsTheBest :
    almost.ctl = .run ∧ gate almost.cfg almost.hdr (almost.afterWrite 64).pos ∧
    (almost.afterWrite 64).corr.aboveThres ∧ almost.maxCorr < (almost.afterWrite 64).corr.signedSq := by
  decide +kernel

theorem witness_AboveThresholdRecordsTheBest_tie :
    (let s : State := { almost with maxCorr := 1 }
     gate s.cfg s.hdr (s.afterWrite 64).pos ∧ (s.afterWrite 64).corr.aboveThres ∧
      ¬ s.maxCorr < (s.afterWrite 64).corr.signedSq) := by decide +kernel

theorem witness_TrackerSkips_below :
    (let s : State := running small []
     gate s.cfg s.hdr (s.afterWrite 5).pos ∧ ¬ (s.afterWrite 5).corr.aboveThres ∧ s.maxCorr = 0) := by
  decide +kernel

theorem witness_TrackerSkips_early :
    ((atField 97).afterWrite 5).pos < (atField 97).cfg.off (atField 97).hdr - (atField 97).cfg.spb := by
  decide +kernel

/-- The three outcomes of POLARITY_FIX: a positive, a negative, and a zero score. -/
theorem witness_MainHeaderCommit :
    (gate small 0 ((locked mainHigh).afterWrite 128).pos ∧ ¬ ((locked mainHigh).afterWrite 128).corr.aboveThres ∧
      0 < (locked mainHigh).maxCorr ∧ (locked mainHigh).hdr = 0 ∧ (locked mainHigh).ctl = .run) ∧
    ¬ ((locked mainLow).afterWrite 128).corr.aboveThres ∧ ¬ ((locked []).afterWrite 128).corr.aboveThres := by
  decide +kernel

theorem test_commit_polarity :
    (after (locked mainHigh) 0x0180).polarity = .plus ∧ (after (locked mainLow) 0x0180).polarity = .minus ∧
    (after { locked [] with polarity := .minus } 0x0180).polarity = .minus := by decide +kernel

theorem witness_FieldHeaderCommit :
    (trackingField 98).ctl = .run ∧ (trackingField 98).hdr ≠ 0 ∧
    gate (trackingField 98).cfg (trackingField 98).hdr ((trackingField 98).afterWrite 5).pos ∧
    ¬ ((trackingField 98).afterWrite 5).corr.aboveThres ∧ 0 < (trackingField 98).maxCorr := by decide +kernel

/-- The shift inside half a period, and not. -/
theorem witness_CommitAlignsTheBitClock :
    (let s := trackingField 98
     2 * |sgnB s.cfg.ringSize ((s.newStart : Int) - s.bitStart)| < s.cfg.spb) ∧
    (let s : State := { trackingField 98 with bitStart := 21 }
     gate s.cfg s.hdr (s.afterWrite 5).pos ∧ ¬ (s.afterWrite 5).corr.aboveThres ∧ 0 < s.maxCorr ∧
      ¬ 2 * |sgnB s.cfg.ringSize ((s.newStart : Int) - s.bitStart)| < s.cfg.spb) := by decide +kernel

theorem witness_ForceAdvance :
    (trackingField 101).ctl = .run ∧ (trackingField 101).hdr ≠ 0 ∧
    (trackingField 101).cfg.off (trackingField 101).hdr + (trackingField 101).cfg.spb <
      ((trackingField 101).afterWrite 5).pos := by decide +kernel

theorem test_vtr8_force_advance :
    (after (trackingField 101) 0x0105).hdr = 3 ∧ (after (trackingField 101) 0x0105).maxCorr = 0 := by decide +kernel

theorem witness_FieldHeaderSlotEnds :
    (atField 100).cfg.Legal ∧ (atField 100).hdr ≠ 0 ∧ 1 ≤ ([5, 6] : List Byte).length ∧
    (atField 100).cfg.off (atField 100).hdr + (atField 100).cfg.spb + 1 ≤
      ((atField 100).pos : Int) + ([5, 6] : List Byte).length ∧
    PushRun (atField 100) [5, 6] (pushAll (atField 100) [5, 6]) :=
  ⟨small_legal, by decide, by decide, by decide, pushRun_pushAll _ _ (.inr rfl)⟩

/-- The best window with the greatest delay that leaves it intact, `B - L[0] = 24` samples. -/
theorem witness_BestWindowStaysIntact :
    0 < (locked mainHigh).cfg.ringSize ∧
    (locked mainHigh).newStart =
      ringIdx (locked mainHigh).cfg.ringSize (((locked mainHigh).p : Int) + (locked mainHigh).cfg.spb - 1) ∧
    PushRun (locked mainHigh) (List.replicate 24 5) (pushAll (locked mainHigh) (List.replicate 24 5)) ∧
    (pushAll (locked mainHigh) (List.replicate 24 5)).newStart = (locked mainHigh).newStart ∧
    (List.replicate 24 (5 : Byte)).length + (locked mainHigh).cfg.len 0 ≤ (locked mainHigh).cfg.ringSize :=
  ⟨by decide, by decide, pushRun_pushAll _ _ (.inr rfl), by decide +kernel, by decide⟩

theorem witness_StaleStartIsUnobservable :
    SameButStaleStart (offering almost 0x0140) { offering almost 0x0140 with newStart := 9 } ∧
    ∃ s', step (offering almost 0x0140) = .next s' :=
  ⟨.inr ⟨rfl, rfl⟩, runs ((offering almost 0x0140).consume []) _ (.inr rfl)⟩

/-- A PUSH after which a unit is due, under each polarity and mode, and one after which none is. -/
theorem witness_EmitterStep :
    ((almost.afterWrite 64).trackStep.due ∧ ¬ (State.reset.afterWrite 64).trackStep.due) ∧
    ({ almost with polarity := .minus, ovs := true } : State).ctl = .run := by decide +kernel

theorem witness_EmittedByteIsTheRoundedAverage : 1 ≤ almost.cfg.spb ∧ almost.periodAvg = 128 := by decide

theorem almost_ranges : almost.Ranges where
  legal := small_legal
  p := by decide
  newStart := by decide
  bitStart := by decide
  pos := by decide
  maxCorr := .inl rfl
  bufWf := by decide
  bufIdx := by decide

/-- A block about to force-advance past header 2 with a unit due in the same PUSH. -/
def dueAtForce : State := { trackingField 101 with bitStart := 0 }

theorem dueAtForce_ranges : dueAtForce.Ranges :=
  ⟨small_legal, by decide, by decide, by decide, by decide, .inr (by decide +kernel), by decide, by decide⟩

/-- `dist(bit_start)` at both ends of its range, -1 with one sample per bit and -4 with four, and a force-advance. -/
theorem witness_EmitterSteadyState :
    (almost.Ranges ∧ (∃ t, exec (.push 64) almost = .next t) ∧
      ¬ (gate almost.cfg almost.hdr (almost.afterWrite 64).pos ∧ ¬ (almost.afterWrite 64).corr.aboveThres ∧
        0 < almost.maxCorr) ∧
      almost.dist almost.bitStart = -1) ∧
    (dueAtForce.Ranges ∧ (∃ t, exec (.push 5) dueAtForce = .next t) ∧
      ¬ gate dueAtForce.cfg dueAtForce.hdr (dueAtForce.afterWrite 5).pos ∧
      dueAtForce.dist dueAtForce.bitStart = -1 ∧ (after dueAtForce 0x0105).hdr = 3) ∧
    ({ running Config.tcB [] with p := 28, pos := 28 } : State).dist
      ({ running Config.tcB [] with p := 28, pos := 28 } : State).bitStart = -4 :=
  ⟨⟨almost_ranges, runs almost _ (.inr rfl), by decide +kernel, by decide +kernel⟩,
    ⟨dueAtForce_ranges, runs dueAtForce _ (.inr rfl), by decide +kernel, by decide +kernel, by decide +kernel⟩,
    by decide +kernel⟩

theorem witness_FirstUnitAtPushL0 :
    Config.tcA.Legal ∧ (Config.tcA.len 0 : Int) ≤ Config.tcA.off 0 - Config.tcA.spb ∧
    PushRun (State.resetWith Config.tcA) (List.replicate 31 128) (pushAll State.reset (List.replicate 31 128)) ∧
    PushRun (State.resetWith Config.tcA) (List.replicate 32 128) (pushAll State.reset (List.replicate 32 128)) ∧
    (List.replicate 31 (128 : Byte)).length < Config.tcA.len 0 ∧
    (List.replicate 32 (128 : Byte)).length = Config.tcA.len 0 :=
  ⟨by decide +kernel, by decide, pushRun_pushAll _ _ (.inl reset_idle), pushRun_pushAll _ _ (.inl reset_idle),
    by decide, by decide⟩

theorem witness_SilenceNeverLocks :
    Config.tcA.Legal ∧
    PushRun (State.resetWith Config.tcA) (List.replicate 36 128) (pushAll State.reset (List.replicate 36 128)) :=
  ⟨by decide +kernel, pushRun_pushAll _ _ (.inl reset_idle)⟩

theorem witness_RangesAtReset : Config.tcB.Legal := by decide +kernel

/-- A command step that records a best, and a reset step. -/
theorem witness_StepKeepsRanges :
    ({ almost with input := [.command 0x0140] } : State).Ranges ∧
    (∃ t, step { almost with input := [.command 0x0140] } = .next t) ∧
    ∃ t, step { almost with input := [.reset] } = .next t :=
  ⟨⟨small_legal, by decide, by decide, by decide, by decide, .inl rfl, by decide, by decide⟩,
    runs ((offering almost 0x0140).consume []) _ (.inr rfl), ⟨_, rfl⟩⟩

theorem witness_StatusStaysConsistent :
    (offering almost 0x0000).StatusOk ∧ ∃ t, step (offering almost 0x0000) = .next t :=
  ⟨⟨by decide, by decide, by decide +kernel⟩, runs ((offering almost 0x0000).consume []) _ (.inr rfl)⟩

/-- The block after reset, its control state written out, with a SETMODE word at its input. -/
def freshBlock : State := { offering State.reset 0x0201 with ctl := .idle }

theorem witness_IdleIsFresh :
    freshBlock.Fresh ∧ freshBlock.ctl = .idle ∧ ∃ t, step freshBlock = .next t :=
  ⟨fun _ => State.ext rfl rfl rfl rfl rfl rfl rfl rfl rfl rfl reset_idle.symm rfl rfl rfl, rfl,
    runs (freshBlock.consume []) _ (.inl rfl)⟩

theorem witness_BestNeverExceedsOne :
    (offering almost 0x0140).maxCorr ≤ 1 ∧ ∃ t, step (offering almost 0x0140) = .next t :=
  ⟨by decide +kernel, runs ((offering almost 0x0140).consume []) _ (.inr rfl)⟩

theorem witness_StatusAndPolarityCodes :
    State.reset.ctl = .idle ∧ almost.ctl = .run ∧ (after almost 0x0300).ctl = .done ∧
    (after almost 0x0400).ctl = .fault ∧ small.Legal ∧ ¬ ({ small with ringSize := 16 } : Config).Legal := by
  decide +kernel

/-- The status outputs after EOS, and after V-F1's late SETMODE (R33, R261). -/
theorem test_status_outputs :
    (after almost 0x0300).status = (2, 0) ∧ (after almost 0x0201).status = (3, 3) := by decide +kernel

end Sys2Proof.Machine.Tests
end

section
/-! PROOFS. The statements of 30_encoding.md: the decoder against the mask and match of each row, the words of the
assembly lines, and the codes of the status outputs. -/

namespace Sys2Proof

/-! ### Masking a word, field by field -/

/-- A word meets a mask and match exactly when each of its fields meets its half of them (R70). -/
theorem masked_eq_iff_fields (w : Word) (maskOp maskD matchOp matchD : Byte) :
    w &&& (maskOp ++ maskD : Word) = matchOp ++ matchD ↔
      opField w &&& maskOp = matchOp ∧ operandField w &&& maskD = matchD := by
  conv_lhs => rw [word_eq_fields w]
  rw [fields_and, fields_inj]

/-- The low bit masked off, an operand is 0 exactly when its upper seven bits are. -/
theorem and_0xFE_eq_zero_iff (x : Byte) : x &&& 0xFE = 0 ↔ x.extractLsb' 1 7 = 0 := by
  revert x
  decide

/-- A mask of eight ones keeps the whole field. -/
theorem and_0xFF (x : Byte) : x &&& 0xFF = x := BitVec.and_allOnes

/-- PUSH's mask and match test the opcode field alone (R73). -/
theorem push_row_iff (w : Word) : w &&& 0xFF00 = 0x0100 ↔ opField w = 0x01 := by
  have fields := masked_eq_iff_fields w 0xFF 0x00 0x01 0x00
  rw [and_0xFF] at fields
  exact fields.trans (and_iff_left BitVec.and_zero)

/-- SETMODE's mask and match test the opcode field and the upper seven bits of the operand (R74). -/
theorem setmode_row_iff (w : Word) :
    w &&& 0xFFFE = 0x0200 ↔ opField w = 0x02 ∧ (operandField w).extractLsb' 1 7 = 0 := by
  have fields := masked_eq_iff_fields w 0xFF 0xFE 0x02 0x00
  rwa [and_0xFF, and_0xFE_eq_zero_iff] at fields

/-- EOS's mask and match test both fields whole (R75). -/
theorem eos_row_iff (w : Word) : w &&& 0xFFFF = 0x0300 ↔ opField w = 0x03 ∧ operandField w = 0x00 := by
  have fields := masked_eq_iff_fields w 0xFF 0xFF 0x03 0x00
  rwa [and_0xFF, and_0xFF] at fields

/-- The operand's low bit is the word's (R70). -/
theorem operandField_getLsbD_zero (w : Word) : (operandField w).getLsbD 0 = w.getLsbD 0 := by
  simp [operandField]

/-- Settles O2: each row's mask and match say of the two fields what the decoder asks of them. -/
theorem decodeAgreesWithMatchAndMask : Obligations.DecodeAgreesWithMatchAndMask := by
  intro w
  simp only [push_row_iff, setmode_row_iff, eos_row_iff, ← operandField_getLsbD_zero]
  rfl

/-! ### The words of commands whose operands are written as numbers -/

/-- PUSH's word is 0x0100 plus the sample (R73). -/
theorem encode_push_ofNat (v : Nat) (h : v < 256) :
    encode (.push (BitVec.ofNat 8 v)) = BitVec.ofNat 16 (0x0100 + v) := by
  have disjoint : 256 ||| v = 256 + v := (Nat.two_pow_add_eq_or_of_lt (i := 8) h 1).symm
  apply BitVec.eq_of_toNat_eq
  simp [encode, Nat.mod_eq_of_lt h, Nat.mod_eq_of_lt (show v < 65536 by omega), disjoint]
  omega

namespace Machine

theorem pushCopies_of_lt (v n : Nat) (h : v < 256) :
    pushCopies v n = some (List.replicate n (encode (.push (BitVec.ofNat 8 v)))) := if_pos h

/-- The words of a `PUSH` line (R82). -/
theorem words_push (spb v : Nat) :
    (AsmLine.push v).words spb = if v < 256 then some [BitVec.ofNat 16 (0x0100 + v)] else none := by
  change pushCopies v 1 = _
  unfold pushCopies
  split
  · next h => rw [encode_push_ofNat v h]; rfl
  · rfl

/-- The word of a `SETMODE` line (R82). -/
theorem words_setmode (spb v : Nat) :
    (AsmLine.setmode v).words spb = if v < 2 then some [BitVec.ofNat 16 (0x0200 + v)] else none := by
  change setmodeWords v = _
  unfold setmodeWords
  split
  · next h => interval_cases v <;> rfl
  · rfl

/-- Copies of one PUSH line assemble to the copies of its word (R83). -/
theorem assembleLines_replicate_push (spb v n : Nat) (h : v < 256) :
    assembleLines spb (List.replicate n (.push v)) = pushCopies v n := by
  induction n with
  | zero => exact (pushCopies_of_lt v 0 h).symm
  | succ n ih =>
    rw [List.replicate_succ, assembleLines, ih]
    simp [AsmLine.words, pushCopies_of_lt, h, List.replicate_succ]

/-- One PUSHN line of SPB samples for each bit assembles to the words of PUSHBITS (R83). -/
theorem assembleLines_pushN_of_bits (spb a1 a0 : Nat) (bits : List Bool) (h1 : a1 < 256) (h0 : a0 < 256) :
    assembleLines spb (bits.map fun b => .pushN (if b then a1 else a0) spb) = pushBitsWords spb a1 a0 bits := by
  induction bits with
  | nil => exact (if_pos ⟨h1, h0⟩).symm
  | cons b rest ih =>
    rw [List.map_cons, assembleLines, pushBitsWords, ih]
    rfl

/-- Settles O5: the plain lines by the words of their commands, PUSHN by induction on the number of copies and
PUSHBITS by induction on the bits. -/
theorem assemblyLinesExpand : Obligations.AssemblyLinesExpand := fun spb =>
  ⟨words_push spb, words_setmode spb, rfl, fun _ => rfl,
    fun v n h => (assembleLines_replicate_push spb v n h).symm,
    fun a1 a0 bits h1 h0 => (assembleLines_pushN_of_bits spb a1 a0 bits h1 h0).symm,
    fun _ => rfl, rfl⟩

/-! ### The status outputs -/

theorem status_eq (s : State) : s.status = (s.ctl.code, s.err) := rfl

/-- The status outputs after reset of a legal configuration (R293). -/
theorem resetWith_status_of_legal (c : Config) (h : c.Legal) : (State.resetWith c).status = (0, 0) := by
  rw [status_eq, State.resetWith_ctl_of_legal c h, State.resetWith_err_of_legal c h]
  rfl

/-- The status outputs after reset of an illegal configuration (R293). -/
theorem resetWith_status_of_not_legal (c : Config) (h : ¬ c.Legal) : (State.resetWith c).status = (3, 1) := by
  rw [status_eq, State.resetWith_ctl_of_not_legal c h, State.resetWith_err_of_not_legal c h]
  rfl

/-- Settles O60: the codes by their definitions, and the outputs after reset by the legality of the
configuration. -/
theorem statusAndPolarityCodes : Obligations.StatusAndPolarityCodes := by
  refine ⟨fun s => ⟨rfl, ?_, ?_, ?_, ?_⟩, by decide, by decide,
    fun c => ⟨resetWith_status_of_legal c, resetWith_status_of_not_legal c⟩⟩
  all_goals
    intro h
    rw [status_eq, h]
    rfl

end Machine
end Sys2Proof
end

section
/-! PROOFS. The statements of 40_buffer.md: the ring write, the signed normalization, the cells of a window, and the
means and deviations as real numbers. -/

namespace Sys2Proof

/-! ### The signed normalization and the ring's indices -/

/-- One past an index of the ring is the next index, or 0 past the last (R100). -/
theorem ringIdx_succ (n p : Nat) (h : p < n) : ringIdx n ((p : Int) + 1) = if p + 1 = n then 0 else p + 1 := by
  have step : ringIdx n ((p : Int) + 1) = (p + 1) % n := mod_cast ringIdx_natCast n (p + 1)
  rw [step]
  split
  · next last => rw [last, Nat.mod_self]
  · exact Nat.mod_eq_of_lt (by omega)

/-- The two values of `sgnB r`: `r mod B`, or that less B where it is more than B/2 (R101). -/
theorem sgnB_cases (n : Nat) (r : Int) :
    ((n : Int) < 2 * (r % n) ∧ sgnB n r = r % n - n) ∨ (2 * (r % n) ≤ (n : Int) ∧ sgnB n r = r % n) := by
  by_cases h : 2 * (r % n) > (n : Int)
  · exact .inl ⟨h, if_pos h⟩
  · exact .inr ⟨not_lt.mp h, if_neg h⟩

/-- `sgnB` is above `-B/2` and at most `B/2` (R101). -/
theorem sgnB_range (n : Nat) (r : Int) (h : 0 < n) : -(n : Int) < 2 * sgnB n r ∧ 2 * sgnB n r ≤ n := by
  have nonneg : 0 ≤ r % (n : Int) := Int.emod_nonneg r (by omega)
  have below : r % (n : Int) < n := Int.emod_lt_of_pos r (by omega)
  rcases sgnB_cases n r with ⟨_, e⟩ | ⟨_, e⟩ <;> omega

/-- `sgnB r` is congruent to `r` mod B (R101). -/
theorem dvd_sub_sgnB (n : Nat) (r : Int) : (n : Int) ∣ r - sgnB n r := by
  have rep : (n : Int) ∣ r - r % (n : Int) := Int.dvd_self_sub_emod
  rcases sgnB_cases n r with ⟨_, e⟩ | ⟨_, e⟩
  · rw [e, ← sub_add]
    exact rep.add (dvd_refl _)
  · rw [e]
    exact rep

/-- Settles O25: `sgnB r` is in the range and congruent to `r`, and it sees of a number only its class, so it gives
back the number of the range. -/
theorem signedNormalization : Obligations.SignedNormalization := by
  intro n r d hn
  constructor
  · rintro rfl
    exact ⟨(sgnB_range n r hn).1, (sgnB_range n r hn).2, dvd_sub_sgnB n r⟩
  · rintro ⟨above, atMost, congruent⟩
    rw [sgnB_congr n r d (Int.modEq_iff_dvd.mpr congruent).symm, sgnB_of_range n d above atMost]

/-- Offsets below the capacity name different cells from any start (R102). -/
theorem ringIdx_add_inj (n : Nat) (start : Int) (i j : Nat) (hi : i < n) (hj : j < n)
    (h : ringIdx n (start + i) = ringIdx n (start + j)) : i = j := by
  have hn : 0 < n := by omega
  have sums : start + i ≡ start + j [ZMOD n] := by
    rw [Int.ModEq, ← ringIdx_cast n _ hn, ← ringIdx_cast n _ hn, h]
  have offsets : i ≡ j [MOD n] := Int.natCast_modEq_iff.mp (Int.ModEq.add_left_cancel' start sums)
  exact offsets.eq_of_lt_of_lt hi hj

namespace Machine

/-! ### The ring write and the windows -/

/-- In IDLE and RUN a PUSH completes (R233). -/
theorem exec_push_of_accepting (s : State) (x : Byte) (h : s.accepting) :
    exec (.push x) s = .next (s.afterWrite x).trackStep.emitStep :=
  s.whenAccepting_of_accepting _ h

/-- Settles O24: of the three parts of a PUSH only the write touches the ring and the head. -/
theorem pushWritesTheRing : Obligations.PushWritesTheRing := by
  intro s x accepting hp canonical
  refine ⟨_, exec_push_of_accepting s x accepting, ?_, fun a ha => ?_, ?_⟩
  · simp [ringIdx_of_lt _ _ hp, Memory.read_write_same _ _ _ canonical]
  · simp [ringIdx_of_lt _ _ hp, Memory.read_write_other _ _ _ _ ha]
  · simp [ringIdx_succ _ _ hp]

/-- Sample `i` of a window is the ring's cell `start + i` (R102). -/
theorem State.win_getD (s : State) (start : Int) (n i : Nat) (h : i < n) :
    (s.win start n).getD i 0 = s.ringRead (start + i) := by
  simp [State.win, h]

/-- Settles O26: each sample by its offset, and the cells are distinct since the offsets are below the capacity. -/
theorem windowCellsAreDistinct : Obligations.WindowCellsAreDistinct := by
  intro s start n _ hn
  exact ⟨s.win_length start n, fun i hi => s.win_getD start n i hi,
    fun i j hi hj => ringIdx_add_inj _ start i j (hi.trans_le hn) (hj.trans_le hn)⟩

/-! ### Means and deviations -/

/-- A window's sum is in `0..255` times its length (R78, R106). -/
theorem windowSum_bounds (w : List Byte) : 0 ≤ windowSum w ∧ windowSum w ≤ 255 * w.length := by
  induction w with
  | nil => simp [windowSum_nil]
  | cons x w ih =>
    have low := sampleVal_nonneg x
    have high := sampleVal_le x
    rw [windowSum_cons, List.length_cons]
    omega

/-- A window's mean is in `[0, 255]` (R103). -/
theorem windowMean_bounds (w : List Byte) : 0 ≤ windowMean w ∧ windowMean w ≤ 255 := by
  obtain ⟨low, high⟩ := windowSum_bounds w
  constructor
  · exact div_nonneg (mod_cast low) (Nat.cast_nonneg _)
  · exact div_le_of_le_mul₀ (Nat.cast_nonneg _) (by norm_num) (mod_cast high)

/-- The sum of squares with each square written as a product (R106). -/
theorem windowSqSum_eq_sum_mul (w : List Byte) : windowSqSum w = (w.map fun x => sampleVal x * sampleVal x).sum := by
  simp only [windowSqSum, sq]

/-- The square root of a variance floored at SD_FLOOR's square is the deviation floored at SD_FLOOR (R104, R136). -/
theorem sqrt_max_sdFloor_sq (v : ℚ) :
    Real.sqrt ((max v (sdFloor ^ 2) : ℚ) : ℝ) = max (Real.sqrt (v : ℝ)) (1 / 2 ^ 16) := by
  have floor : Real.sqrt ((sdFloor ^ 2 : ℚ) : ℝ) = 1 / 2 ^ 16 := by
    rw [Rat.cast_pow, Real.sqrt_sq (by norm_num [sdFloor])]
    norm_num [sdFloor]
  rw [Rat.cast_max, Real.sqrt_monotone.map_max, floor]

/-- WINDOW_SD as a real number (R104). -/
theorem sqrt_windowSdSq (w : List Byte) :
    Real.sqrt (windowSdSq w : ℝ) =
      max (Real.sqrt ((windowSqSum w : ℝ) / w.length - (windowMean w : ℝ) ^ 2)) (1 / 2 ^ 16) := by
  rw [windowSdSq, sqrt_max_sdFloor_sq, windowVar]
  push_cast
  rfl

/-- TEMPLATE_SD as a real number (R136). -/
theorem sqrt_templateSdSq (t : List Int) :
    Real.sqrt (templateSdSq t : ℝ) = max (Real.sqrt (1 - (templateMean t : ℝ) ^ 2)) (1 / 2 ^ 16) := by
  rw [templateSdSq, sqrt_max_sdFloor_sq]
  push_cast
  rfl

/-- Settles O30: the means by definition, and the deviations since the square root turns the maximum of squares into
the maximum of roots. -/
theorem windowAndTemplateStatistics : Obligations.WindowAndTemplateStatistics := by
  refine ⟨fun w _ => ⟨rfl, (windowMean_bounds w).1, (windowMean_bounds w).2, ?_⟩,
    fun c k => ⟨?_, sqrt_templateSdSq (c.tv k)⟩⟩
  · rw [sqrt_windowSdSq, windowSqSum_eq_sum_mul]
  · rw [← Config.tv_length]
    rfl

end Machine
end Sys2Proof
end

section
/-! PROOFS. The statements of 41_templates.md: no step writes the configuration or the bank, and the value of each
sample of an expanded template. -/

namespace Sys2Proof
namespace Machine

/-! ### The frame of the configuration -/

/-- No command writes the configuration (R139): none of the five outcomes of a command does. -/
theorem exec_keeps_cfg (i : Instr) (s t : State) (h : exec i s = .next t) : t.cfg = s.cfg := by
  obtain ⟨-, outcome⟩ := exec_next_cases i s t h
  rcases outcome with ⟨x, -, rfl⟩ | ⟨ovs, -, -, rfl⟩ | ⟨ovs, -, -, rfl⟩ | ⟨-, rfl⟩ | ⟨w, -, rfl⟩
  case inl => simp
  all_goals rfl

/-- No step writes the configuration: a reset takes it over, and a command does not write it (R139, R290). -/
theorem step_keeps_cfg (s t : State) (h : step s = .next t) : t.cfg = s.cfg := by
  rcases step_next_cases s t h with ⟨rest, -, rfl⟩ | ⟨w, rest, -, -, run⟩
  · rfl
  · rw [exec_keeps_cfg (decode w) (s.consume rest) t run, State.consume_cfg]

/-- Settles O19: the bank is a function of the configuration, which no step writes. -/
theorem configurationAndTemplatesNeverChange : Obligations.ConfigurationAndTemplatesNeverChange := by
  intro s t h
  rw [step_keeps_cfg s t h]
  exact ⟨rfl, fun _ => ⟨rfl, rfl, rfl⟩⟩

end Machine

/-! ### The values of a template -/

/-- Bit `8 * byte + bit` of a header is that bit of that byte (R131). -/
theorem Config.hbit_byte_bit (c : Config) (k : HeaderIndex) (byte bit : Nat) (h : bit < 8) :
    c.hbit k (8 * byte + bit) = ((c.header k).bytes.getD byte 0).getLsbD bit := by
  rw [Config.hbit, show (8 * byte + bit) / 8 = byte by omega, show (8 * byte + bit) % 8 = bit by omega]

/-- Within a template, value `i` is that of header bit `i div SPB` (R133). -/
theorem Config.tv_getD (c : Config) (k : HeaderIndex) (i : Nat) (h : i < c.len k) :
    (c.tv k).getD i 0 = bitVal (c.hbit k (i / c.spb)) := by
  simp [Config.tv, h]

/-- Every repetition of bit `j` holds the value of bit `j` (R133). -/
theorem Config.tv_getD_repetition (c : Config) (k : HeaderIndex) (j rep : Nat) (hj : j < 8 * c.nb k)
    (hrep : rep < c.spb) : (c.tv k).getD (j * c.spb + rep) 0 = bitVal (c.hbit k j) := by
  have within : j * c.spb + rep < c.len k :=
    calc j * c.spb + rep < (j + 1) * c.spb := by rw [Nat.succ_mul]; omega
      _ ≤ 8 * c.nb k * c.spb := Nat.mul_le_mul_right _ hj
  have bitOfSample : (j * c.spb + rep) / c.spb = j := by
    rw [Nat.mul_comm, Nat.mul_add_div (by omega), Nat.div_eq_of_lt hrep, Nat.add_zero]
  rw [c.tv_getD k _ within, bitOfSample]

namespace Machine

/-- Settles O28: a sample's index names its bit, and the bit's index names its byte and its place there. -/
theorem templateExpansion : Obligations.TemplateExpansion := by
  refine fun c k => ⟨c.tv_length k, fun byte bit rep hbyte hbit hrep => ?_⟩
  have bitWithin : 8 * byte + bit < 8 * c.nb k := by
    unfold Config.nb
    omega
  rw [c.tv_getD_repetition k _ rep bitWithin hrep, c.hbit_byte_bit k byte bit hbit, bitVal]

end Machine
end Sys2Proof
end

section
/-! PROOFS. The statements of 42_correlation.md: the exact representation of a score against the real number that it
stands for. -/

namespace Sys2Proof.Machine

/-! ### The score as a real number -/

/-- A rational is its sign times its absolute value: what the pair `(s, q)` rests on (R157). -/
theorem ratSign_mul_abs (x : ℚ) : (ratSign x : ℚ) * |x| = x := by
  rcases ratSign_cases x with ⟨pos, e⟩ | ⟨neg, e⟩ | ⟨zero, e⟩
  · rw [e, abs_of_pos pos, Int.cast_one, one_mul]
  · rw [e, abs_of_neg neg, Int.cast_neg, Int.cast_one, neg_one_mul, neg_neg]
  · rw [e, zero, abs_zero, mul_zero]

/-- The root of SCORE's squared denominator is `sd_s * sd_t` (R150). -/
theorem sqrt_scoreDenSq (w : List Byte) (t : List Int) :
    Real.sqrt (scoreDenSq w t : ℝ) = Real.sqrt (windowSdSq w : ℝ) * Real.sqrt (templateSdSq t : ℝ) := by
  rw [scoreDenSq, Rat.cast_mul, Real.sqrt_mul (mod_cast (windowSdSq_pos w).le)]

/-- The pair of a score stands for SCORE's numerator over its denominator (R150, R157). -/
theorem scoreOf_real (w : List Byte) (t : List Int) :
    (scoreOf w t).real =
      (scoreNum w t : ℝ) / (Real.sqrt (windowSdSq w : ℝ) * Real.sqrt (templateSdSq t : ℝ)) := by
  have signed : (ratSign (scoreNum w t) : ℝ) * |(scoreNum w t : ℝ)| = scoreNum w t :=
    mod_cast ratSign_mul_abs (scoreNum w t)
  calc (scoreOf w t).real
      = (ratSign (scoreNum w t) : ℝ) * Real.sqrt ((scoreNum w t : ℝ) ^ 2 / (scoreDenSq w t : ℝ)) := by
        rw [Score.real, scoreOf, Rat.cast_div, Rat.cast_pow]
    _ = (ratSign (scoreNum w t) : ℝ) * |(scoreNum w t : ℝ)| / Real.sqrt (scoreDenSq w t : ℝ) := by
        rw [Real.sqrt_div (sq_nonneg _), Real.sqrt_sq_eq_abs, mul_div_assoc]
    _ = _ := by rw [signed, sqrt_scoreDenSq]

/-- SCORE on real numbers has the same numerator, and its denominator is the two floored deviations (R150). -/
theorem realScore_eq (w : List Byte) (t : List Int) :
    realScore w t = (scoreNum w t : ℝ) / (Real.sqrt (windowSdSq w : ℝ) * Real.sqrt (templateSdSq t : ℝ)) := by
  rw [sqrt_windowSdSq, sqrt_templateSdSq]
  simp [realScore, scoreNum, correlate, windowMean, templateMean, sdFloor, sq]

/-- Settles O31: both are the exact numerator over `sd_s * sd_t`, since a rational is its sign times the root of its
square. -/
theorem scoreIsTheRealScore : Obligations.ScoreIsTheRealScore := fun w t =>
  (scoreOf_real w t).trans (realScore_eq w t).symm

end Sys2Proof.Machine
end

section
/-! PROOFS. The statements of 43_tracker.md: `corr` as a real number, the gate's bounds, and what a PUSH does where
the tracker records a best, commits, or is forced on. -/

namespace Sys2Proof.Machine

/-! ### `corr` as a real number -/

theorem Score.real_abs (v : Score) : v.abs.real = |v.real| := by
  rw [Score.real, Score.real, abs_mul, abs_of_nonneg (Real.sqrt_nonneg _), ← Int.cast_abs]
  rfl

theorem Score.real_withPolarity (v : Score) (pol : Polarity) :
    (v.withPolarity pol).real = v.real * (if pol = .minus then -1 else 1) := by
  cases pol <;> simp [Score.real, Score.withPolarity, Polarity.sign]

/-- Rule 1 for header 0 (R174). -/
theorem State.corr_main (s : State) (h : s.hdr = 0) :
    s.corr = (s.score (s.idx ((s.p : Int) - s.cfg.len 0)) 0).abs := by
  rw [State.corr, if_pos h, h]

/-- Rule 1 for a field header (R174). -/
theorem State.corr_field (s : State) (h : s.hdr ≠ 0) :
    s.corr = (s.score (s.idx ((s.p : Int) - s.cfg.len s.hdr)) s.hdr).withPolarity s.polarity :=
  if_neg h

/-- The score of a window of the ring stands for the real SCORE of its samples (R150). -/
theorem State.score_real (s : State) (start : Int) (k : HeaderIndex) :
    (s.score start k).real = realScore (s.win start (s.cfg.len k)) (s.cfg.tv k) :=
  scoreIsTheRealScore _ _

/-- Settles O37: the pair's absolute value and its product with the polarity are those of the real number that the
pair stands for. -/
theorem corrIsFormedFromTheMostRecentWindow : Obligations.CorrIsFormedFromTheMostRecentWindow := by
  intro s
  constructor
  · intro main
    rw [s.corr_main main, Score.real_abs, State.score_real]
    rfl
  · intro field
    rw [s.corr_field field, Score.real_withPolarity, State.score_real]
    rfl

/-! ### The gate -/

/-- The gate of the main header is one-sided (R172). -/
theorem gate_main_iff (c : Config) (pos : Nat) : gate c 0 pos ↔ c.off 0 - c.spb ≤ pos := Iff.rfl

/-- The gate of a field header is two-sided, both bounds inclusive (R172). -/
theorem gate_field_iff (c : Config) (k : HeaderIndex) (pos : Nat) (h : k ≠ 0) :
    gate c k pos ↔ c.off k - c.spb ≤ pos ∧ pos ≤ c.off k + c.spb := by
  unfold gate
  rw [if_neg h, abs_le]
  omega

/-- Settles O39: the two kinds of gate. -/
theorem gateBounds : Obligations.GateBounds := by
  intro c k pos
  constructor
  · rintro rfl
    exact gate_main_iff c pos
  · exact gate_field_iff c k pos

/-! ### A PUSH in IDLE or RUN, by what the tracker does in it -/

/-- The tracker's part decides the next state up to the emitter (R237). -/
theorem exec_push_of_trackStep (s u : State) (x : Byte) (accepting : s.accepting)
    (tracked : (s.afterWrite x).trackStep = u) : exec (.push x) s = .next u.emitStep := by
  rw [exec_push_of_accepting s x accepting, tracked]

/-- Where the peak has passed, the PUSH commits (R177). -/
theorem exec_push_of_passed (s : State) (x : Byte) (accepting : s.accepting)
    (gated : gate s.cfg s.hdr (s.afterWrite x).pos) (below : ¬ (s.afterWrite x).corr.aboveThres)
    (tracking : 0 < s.maxCorr) : exec (.push x) s = .next (s.afterWrite x).commit.emitStep :=
  exec_push_of_trackStep s _ x accepting ((s.afterWrite x).trackStep_of_passed gated below tracking)

/-- The emitter's advance of the bit clock, with the due test and the index written out (R211, R214). -/
theorem State.emitStep_bitStart_eq (s : State) :
    s.emitStep.bitStart =
      if 0 ≤ sgnB s.cfg.ringSize ((s.p : Int) - 1 - s.bitStart)
      then ringIdx s.cfg.ringSize ((s.bitStart : Int) + s.cfg.spb) else s.bitStart :=
  s.emitStep_bitStart

/-! ### Rule 2: the best so far -/

theorem Score.signedSq_pos_of_aboveThres (v : Score) (above : v.aboveThres) : 0 < v.signedSq :=
  lt_trans (by norm_num [thres]) above

/-- Above the threshold the recorded square is the signed square that was compared (R157, R175). -/
theorem State.corr_signedSq_of_aboveThres (s : State) (above : s.corr.aboveThres) :
    s.corr.signedSq = s.corr.sq :=
  s.corr_signOk.signedSq_eq s.corr_sq_nonneg (s.corr.signedSq_pos_of_aboveThres above)

/-- Settles O40: a greater `corr` is recorded with its position; otherwise the tracker changes nothing, and the best
that was not exceeded is itself positive. -/
theorem aboveThresholdRecordsTheBest : Obligations.AboveThresholdRecordsTheBest := by
  intro s x accepting gated above
  have positive := Score.signedSq_pos_of_aboveThres _ above
  by_cases better : s.maxCorr < (s.afterWrite x).corr.signedSq
  · have tracked := (s.afterWrite x).trackStep_of_best gated above better
    refine ⟨_, exec_push_of_trackStep s _ x accepting tracked, ?_⟩
    rw [if_pos better]
    rw [State.corr_signedSq_of_aboveThres _ above] at positive ⊢
    simp [positive, State.idx]
  · have tracked := (s.afterWrite x).trackStep_of_noBetter gated above better
    refine ⟨_, exec_push_of_trackStep s _ x accepting tracked, ?_⟩
    rw [if_neg better]
    have stillPositive : 0 < s.maxCorr := positive.trans_le (not_lt.mp better)
    simp [stillPositive]

/-! ### Rule 3: the commit -/

/-- Settles O42: the fields after the commit of header 0; POLARITY_FIX reads the state after the write. -/
theorem mainHeaderCommit : Obligations.MainHeaderCommit := by
  intro s x accepting main gated below tracking
  rw [← main] at gated
  refine ⟨_, exec_push_of_passed s x accepting gated below tracking, ?_, ?_, ?_, ?_, ?_⟩
  · simp [main]
  · simp
  · simp [State.commit_pos, main]
  · simp
  · rw [State.emitStep_polarity, State.commit_polarity, State.afterWrite_hdr, if_pos main]
    rfl

/-- Settles O44: the commit sets the bit clock by CLOCK_UPDATE, and the emitter then advances what it finds. -/
theorem commitAlignsTheBitClock : Obligations.CommitAlignsTheBitClock := by
  intro s x accepting gated below tracking
  refine ⟨_, exec_push_of_passed s x accepting gated below tracking, ?_⟩
  rw [State.emitStep_bitStart_eq, State.commit_bitStart, State.commit_cfg, State.commit_p]
  rfl

/-! ### Rule 5: the force-advance -/

/-- Settles O45: only the header and the best are written, and then the emitter's advance. -/
theorem forceAdvance : Obligations.ForceAdvance := by
  intro s x accepting field past
  have tracked := (s.afterWrite x).trackStep_of_forceDue ⟨field, past⟩
  refine ⟨_, exec_push_of_trackStep s _ x accepting tracked, ?_, ?_, ?_, ?_, ?_, ?_⟩
  · rw [State.emitStep_hdr]
    exact Fin.val_add s.hdr 1
  · simp
  · simp
  · simp
  · simp
  · exact State.emitStep_bitStart_eq _

end Sys2Proof.Machine
end

section
/-! PROOFS. The statement of 44_emitter.md on one PUSH: the output unit and the test for it, written out. -/

namespace Sys2Proof.Machine

/-- The cells of the bit period as integers (R79, R212). -/
theorem State.periodCells_toNat (s : State) :
    s.periodCells.map BitVec.toNat =
      (List.range s.cfg.spb).map fun j : Nat => (s.ringRead ((s.bitStart : Int) - j)).toNat :=
  List.map_map

/-- The byte of the unit with the cells of R212 and the inversion of R213 written out. -/
theorem State.unitByte_eq (s : State) :
    s.unitByte =
      let sum := ((List.range s.cfg.spb).map fun j : Nat => (s.ringRead ((s.bitStart : Int) - j)).toNat).sum
      let avg := (2 * sum + s.cfg.spb) / (2 * s.cfg.spb)
      BitVec.ofNat 8 (if s.polarity = .minus then 255 - avg else avg) := by
  rw [← s.periodCells_toNat]
  unfold State.unitByte
  cases s.polarity <;> rfl

/-- Settles O50: the tracker writes neither the output, the configuration nor the mode, so the emitter appends to the
output that the PUSH found. -/
theorem emitterStep : Obligations.EmitterStep := by
  intro s x accepting v cell avg byte
  have cfg : v.cfg = s.cfg := by simp [v]
  have ovs : v.ovs = s.ovs := by simp [v]
  have out : v.out = s.out := by simp [v]
  have unit : v.unitByte = byte := by
    rw [v.unitByte_eq, cfg]
    simp only [State.ringRead, State.idx, cfg, byte, avg, cell]
  refine ⟨_, exec_push_of_trackStep s v x accepting rfl, ?_⟩
  rcases v.emitStep_cases with ⟨due, step⟩ | ⟨notDue, step⟩
  · rw [State.due, State.dist, cfg] at due
    rw [if_pos due, step, State.emitUnit_out, State.emitUnit_bitStart, State.ospb, State.idx, cfg, ovs, out, unit]
    exact ⟨rfl, rfl⟩
  · rw [State.due, State.dist, cfg] at notDue
    rw [if_neg notDue, step]
    exact ⟨out, rfl⟩

end Sys2Proof.Machine
end

section
/-! PROOFS. The statements of 45_commands.md: the next state that each command answers in IDLE and in RUN. -/

namespace Sys2Proof.Machine

/-- Settles O11: the state that TRACK_STEP sees is the one after the write, with its fields written out. -/
theorem pushCompletesAsSampleStep : Obligations.PushCompletesAsSampleStep :=
  fun s x accepting => exec_push_of_accepting s x accepting

/-- Where commands are accepted, SETMODE completes, by the control state in which it comes (R234). -/
theorem exec_setmode_of_accepting (s : State) (ovs : Bool) (accepting : s.accepting) :
    exec (.setmode ovs) s = .next (if s.ctl = .idle then s.setMode ovs else s.raiseFault errModeLate) :=
  s.whenAccepting_of_accepting _ accepting

/-- In IDLE, SETMODE writes the mode (R234). -/
theorem exec_setmode_of_idle (s : State) (ovs : Bool) (idle : s.ctl = .idle) :
    exec (.setmode ovs) s = .next (s.setMode ovs) := by
  rw [exec_setmode_of_accepting s ovs (.inl idle), if_pos idle]

/-- In RUN, SETMODE is too late and faults (R234, R265). -/
theorem exec_setmode_of_run (s : State) (ovs : Bool) (run : s.ctl = .run) :
    exec (.setmode ovs) s = .next (s.raiseFault errModeLate) := by
  have notIdle : s.ctl ≠ .idle := by simp [run]
  rw [exec_setmode_of_accepting s ovs (.inr run), if_neg notIdle]

/-- Settles O12: IDLE and RUN take the two branches of SETMODE. -/
theorem setmodeTakesEffectOnlyInIdle : Obligations.SetmodeTakesEffectOnlyInIdle :=
  fun s ovs => ⟨exec_setmode_of_idle s ovs, exec_setmode_of_run s ovs⟩

/-- Where commands are accepted, EOS ends the stream (R235). -/
theorem exec_eos_of_accepting (s : State) (accepting : s.accepting) : exec .eos s = .next s.toDone :=
  s.whenAccepting_of_accepting _ accepting

/-- Settles O13: EOS is accepted, and its next state differs in `ctl` only. -/
theorem eosEndsTheStream : Obligations.EosEndsTheStream := exec_eos_of_accepting

/-- Where commands are accepted, an illegal word faults, whatever the word (R236, R264). -/
theorem exec_illegal_of_accepting (s : State) (w : Word) (accepting : s.accepting) :
    exec (.illegal w) s = .next (s.raiseFault errIllegalCmd) :=
  s.whenAccepting_of_accepting _ accepting

/-- Settles O14: the illegal word is accepted, and the fault writes `ctl` and the code 2 only. -/
theorem illegalWordFaults : Obligations.IllegalWordFaults := exec_illegal_of_accepting

end Sys2Proof.Machine
end

section
/-! PROOFS. The statements of 70_reset_and_hazards.md: the state after reset, and the legality of a configuration
against the six conditions stated on the list of headers. -/

namespace Sys2Proof

/-! ### The headers of a configuration, by index and as members of the list -/

/-- Where the list is long enough, header `k` is its element at `k`. -/
theorem Config.header_eq_getElem (c : Config) (k : HeaderIndex) (h : k.val < c.headers.length) :
    c.header k = c.headers[k.val] := List.getD_eq_getElem _ _ h

/-- With 7 headers, what holds at every index is what holds of every member. -/
theorem Config.forall_header_iff (c : Config) (count : c.headers.length = nHdr) (P : Header → Prop) :
    (∀ k, P (c.header k)) ↔ ∀ h ∈ c.headers, P h := by
  rw [List.forall_mem_iff_getElem]
  constructor
  · intro all i inList
    rw [← c.header_eq_getElem ⟨i, inList.trans_eq count⟩ inList]
    exact all _
  · intro all k
    rw [c.header_eq_getElem k (k.isLt.trans_eq count.symm)]
    exact all k.val _

/-- With 7 headers, what holds at every index but 0 is what holds of every member after the first. -/
theorem Config.forall_fieldHeader_iff (c : Config) (count : c.headers.length = nHdr) (P : Header → Prop) :
    (∀ k, k ≠ 0 → P (c.header k)) ↔ ∀ h ∈ c.headers.tail, P h := by
  have tailCount : c.headers.tail.length = 6 := by
    rw [List.length_tail, count]
    rfl
  have header_succ (i : Fin 6) : c.header i.succ = c.headers.tail[i.val]'(i.isLt.trans_eq tailCount.symm) := by
    rw [c.header_eq_getElem i.succ (i.succ.isLt.trans_eq count.symm), List.getElem_tail]
    rfl
  rw [List.forall_mem_iff_getElem]
  constructor
  · intro all i inTail
    rw [← header_succ ⟨i, inTail.trans_eq tailCount⟩]
    exact all _ (Fin.succ_ne_zero _)
  · intro all k field
    obtain ⟨i, rfl⟩ := Fin.exists_succ_eq.mpr field
    rw [header_succ]
    exact all i.val _

/-- The length of the main header is that of the first member, 0 where there is none. -/
theorem Config.nb_main (c : Config) : c.nb 0 = (c.headers.map fun h => h.bytes.length).headD 0 := by
  rw [Config.nb, Config.header]
  cases c.headers <;> rfl

/-! ### The conditions of R292 -/

/-- Condition 1 by the existence of the exponent. -/
theorem Config.ringOk_iff (c : Config) : c.ringOk ↔ (∃ e, c.ringSize = 2 ^ e) ∧ 2 ≤ c.ringSize := by
  constructor
  · rintro ⟨least, power⟩
    exact ⟨⟨_, power.symm⟩, least⟩
  · rintro ⟨⟨e, power⟩, least⟩
    exact ⟨least, by rw [power, Nat.log2_two_pow]⟩

/-- Condition 3 by the members of the list. -/
theorem Config.headersOk_iff (c : Config) :
    c.headersOk ↔ c.headers.length = 7 ∧ ∀ h ∈ c.headers, 1 ≤ h.bytes.length :=
  and_congr_right fun count => c.forall_header_iff count (1 ≤ ·.bytes.length)

/-- Condition 4 by the members of the list. -/
theorem Config.capacityOk_iff (c : Config) (count : c.headers.length = nHdr) :
    c.capacityOk ↔ ∀ h ∈ c.headers, 8 * h.bytes.length * c.spb + c.spb < c.ringSize :=
  c.forall_header_iff count fun h => 8 * h.bytes.length * c.spb + c.spb < c.ringSize

/-- Condition 5 by the first member of the list. -/
theorem Config.mainLen_lt_iff (c : Config) :
    2 * c.len 0 < c.ringSize ↔
      2 * (8 * ((c.headers.map fun h => h.bytes.length).headD 0) * c.spb) < c.ringSize := by
  rw [Config.len, c.nb_main]

/-- Condition 6 by the members of the list. -/
theorem Config.offsetsOk_iff (c : Config) (count : c.headers.length = nHdr) :
    c.offsetsOk ↔
      (∀ h ∈ c.headers, 0 ≤ h.off) ∧ ∀ h ∈ c.headers.tail, h.off + c.spb < 2 ^ 32 - 1 :=
  and_congr (c.forall_header_iff count (0 ≤ ·.off)) (c.forall_fieldHeader_iff count (·.off + c.spb < 2 ^ 32 - 1))

namespace Machine

/-- Settles O18: condition by condition; the count in condition 3 lets the later ones speak of members. -/
theorem legalityIsTheSixConditions : Obligations.LegalityIsTheSixConditions := by
  intro c
  refine and_congr c.ringOk_iff (and_congr_right fun _ => ?_)
  refine (and_congr_left' c.headersOk_iff).trans (and_congr_right fun ⟨count, _⟩ => ?_)
  exact and_congr (c.capacityOk_iff count) (and_congr c.mainLen_lt_iff (c.offsetsOk_iff count))

/-! ### The state after reset -/

/-- Settles O16: the fields by the lemmas of reset, `ctl` and `err` by the legality of the configuration. -/
theorem resetLeavesTheStatedValues : Obligations.ResetLeavesTheStatedValues := by
  intro c
  refine ⟨Memory.read_nil, rfl, rfl, rfl, rfl, rfl, rfl, State.resetWith_bitStart c, rfl, rfl, ?_, ?_⟩
  · intro legal
    exact ⟨State.resetWith_ctl_of_legal c legal, State.resetWith_err_of_legal c legal⟩
  · intro illegal
    exact ⟨State.resetWith_ctl_of_not_legal c illegal, State.resetWith_err_of_not_legal c illegal⟩

end Machine
end Sys2Proof
end

section
/-! PROOFS. The round trips between commands and words, in both directions (30_encoding.md). -/

namespace Sys2Proof

/-- Settles O1: each word is evaluated. -/
theorem sampleWordsDecode : Obligations.SampleWordsDecode := by
  unfold Obligations.SampleWordsDecode
  decide

/-! ### The rows of the opcode table as the decoder meets them -/

theorem matchesPush_iff (w : Word) : matchesPush w = true ↔ w &&& 0xFF00 = 0x0100 := beq_iff_eq

theorem matchesSetmode_iff (w : Word) : matchesSetmode w = true ↔ w &&& 0xFFFE = 0x0200 := beq_iff_eq

theorem matchesEos_iff (w : Word) : matchesEos w = true ↔ w &&& 0xFFFF = 0x0300 := beq_iff_eq

/-- The decoder tries the rows in order (R73 to R77). -/
theorem decode_eq_by_rows (w : Word) :
    decode w =
      if matchesPush w then .push (operandField w)
      else if matchesSetmode w then .setmode (w.getLsbD 0)
      else if matchesEos w then .eos
      else .illegal w := by
  simp only [matchesPush_iff, matchesSetmode_iff, matchesEos_iff]
  exact decodeAgreesWithMatchAndMask w

/-! ### From a command to its word and back -/

/-- PUSH's word is its opcode field followed by the sample (R73). -/
theorem encode_push_fields (x : Byte) : encode (.push x) = ((0x01 : Byte) ++ x : Word) := by
  rw [BitVec.append_def]
  rfl

/-- Settles O3: the word of a command matches the command's own row alone, and so decodes by that row. -/
theorem decodeEncodeRoundTrip : Obligations.DecodeEncodeRoundTrip := by
  intro i wf
  cases i with
  | push x =>
    obtain ⟨isPush, -⟩ := Laws.EncodeRow.push x wf
    rw [decode_eq_by_rows, if_pos isPush, encode_push_fields, operandField_fields]
  | setmode ovs =>
    obtain ⟨notPush, isSetmode, -⟩ := Laws.EncodeRow.setmode ovs wf
    simp only [decode_eq_by_rows, notPush, isSetmode]
    cases ovs <;> rfl
  | eos =>
    obtain ⟨notPush, notSetmode, isEos⟩ := Laws.EncodeRow.eos wf
    simp [decode_eq_by_rows, notPush, notSetmode, isEos]
  | illegal w =>
    obtain ⟨notPush, notSetmode, notEos⟩ :
      matchesPush w = false ∧ matchesSetmode w = false ∧ matchesEos w = false := Laws.EncodeRow.illegal w wf
    change decode w = .illegal w
    simp [decode_eq_by_rows, notPush, notSetmode, notEos]

/-! ### From a word to its command and back -/

/-- A word of PUSH's row is the word of PUSH with its operand (R73). -/
theorem encode_push_operandField (w : Word) (h : matchesPush w = true) : encode (.push (operandField w)) = w := by
  have opcode : opField w = 0x01 := (push_row_iff w).mp ((matchesPush_iff w).mp h)
  rw [encode_push_fields, ← opcode, ← word_eq_fields]

/-- An operand whose upper seven bits are 0 is 1 or 0, by its low bit. -/
theorem operand_eq_of_upper_zero (x : Byte) : x.extractLsb' 1 7 = 0 → x = if x.getLsbD 0 then 0x01 else 0x00 := by
  revert x
  decide

/-- A word of SETMODE's row is the word of SETMODE with its low bit (R74). -/
theorem encode_setmode_low (w : Word) (h : matchesSetmode w = true) : encode (.setmode (w.getLsbD 0)) = w := by
  obtain ⟨opcode, upper⟩ := (setmode_row_iff w).mp ((matchesSetmode_iff w).mp h)
  have operand := operand_eq_of_upper_zero _ upper
  rw [operandField_getLsbD_zero] at operand
  conv_rhs => rw [word_eq_fields w, opcode, operand]
  cases w.getLsbD 0 <;> rfl

/-- A word of EOS's row is the word of EOS (R75). -/
theorem encode_eos_of_matchesEos (w : Word) (h : matchesEos w = true) : encode .eos = w := by
  have whole : w &&& 0xFFFF = w := BitVec.and_allOnes
  exact ((matchesEos_iff w).mp h).symm.trans whole

/-- Settles O4: the row that the word matches says what it decodes to and what that command's word is. -/
theorem encodeDecodeRoundTrip : Obligations.EncodeDecodeRoundTrip := by
  intro w
  rw [decode_eq_by_rows]
  split
  · next isPush => exact ⟨rfl, encode_push_operandField w isPush⟩
  · next notPush =>
    split
    · next isSetmode => exact ⟨rfl, encode_setmode_low w isSetmode⟩
    · next notSetmode =>
      split
      · next isEos => exact ⟨rfl, encode_eos_of_matchesEos w isEos⟩
      · next notEos => exact ⟨by simp [Instr.wf, notPush, notSetmode, notEos], rfl⟩

end Sys2Proof
end

section
/-! PROOFS. What a command and a step do to the control state and to the host's input (45_commands.md,
60_exceptions.md, 70_reset_and_hazards.md), and the frames of the commands. -/

namespace Sys2Proof.Machine

/-! ### Steps, by the control state -/

theorem State.stopReason_of_done (s : State) (h : s.ctl = .done) : s.stopReason = some .streamEnded := by
  rw [State.stopReason, h]

theorem State.stopReason_of_fault (s : State) (h : s.ctl = .fault) :
    s.stopReason = some (.errorState s.err) := by
  rw [State.stopReason, h]

theorem State.not_accepting_of_ended (s : State) (h : s.ctl = .done ∨ s.ctl = .fault) : ¬ s.accepting := by
  unfold State.accepting
  rcases h with h | h <;> simp [h]

/-- Where commands are accepted, a step runs the command that the offered word decodes to (R231). -/
theorem step_of_accepting (s : State) (w : Word) (rest : List HostEvent) (accepting : s.accepting)
    (offered : s.input = .command w :: rest) : step s = exec (decode w) (s.consume rest) := by
  simp [step, State.accept, offered, s.stopReason_accepting accepting]

/-- Where the block has stopped, a step on an offered word answers the reason (R230). -/
theorem step_of_stopReason (s : State) (w : Word) (rest : List HostEvent) (r : Fault)
    (stopped : s.stopReason = some r) (offered : s.input = .command w :: rest) : step s = .fault r := by
  simp [step, State.accept, offered, stopped]

/-- Where commands are accepted and nothing is offered, the block waits (R232). -/
theorem step_of_no_input (s : State) (accepting : s.accepting) (empty : s.input = []) :
    step s = .fault .waitingForCommand := by
  simp [step, State.accept, empty, s.stopReason_accepting accepting]

/-- In every control state a reset resets (R290). -/
theorem step_of_reset (s : State) (rest : List HostEvent) (offered : s.input = .reset :: rest) :
    step s = .next ((State.resetWith s.cfg).consume rest) := by
  simp only [step, State.accept, offered]
  rfl

/-- Settles O6: accepting states have no reason to stop. -/
theorem stepRunsTheDecodedWord : Obligations.StepRunsTheDecodedWord := step_of_accepting

/-- Settles O8: DONE and FAULT each have their reason to stop, and IDLE and RUN wait where nothing is offered. -/
theorem endedFaultedAndWaitingTakeNoStep : Obligations.EndedFaultedAndWaitingTakeNoStep := fun s =>
  ⟨fun w rest offered done => step_of_stopReason s w rest _ (s.stopReason_of_done done) offered,
    fun w rest offered fault => step_of_stopReason s w rest _ (s.stopReason_of_fault fault) offered,
    step_of_no_input s⟩

/-- Settles O17: a reset is taken before the control state is looked at. -/
theorem resetInAnyStateDiscardsTheRun : Obligations.ResetInAnyStateDiscardsTheRun := step_of_reset

/-- Settles O9: a command step would need an accepting state, so the step was a reset. -/
theorem onlyResetLeavesDoneAndFault : Obligations.OnlyResetLeavesDoneAndFault := by
  intro s t ended run
  rcases step_next_cases s t run with reset | ⟨w, rest, -, accepting, -⟩
  · exact reset
  · exact absurd accepting (s.not_accepting_of_ended ended)

/-! ### Commands, by the control state -/

/-- Settles O7: each command completes where commands are accepted, and an outcome with a next state was accepted. -/
theorem commandsAcceptedExactlyInIdleAndRun : Obligations.CommandsAcceptedExactlyInIdleAndRun := by
  intro i s
  constructor
  · rintro ⟨t, run⟩
    exact (exec_next_cases i s t run).1
  · intro accepting
    cases i with
    | push x => exact ⟨_, exec_push_of_accepting s x accepting⟩
    | setmode ovs => exact ⟨_, exec_setmode_of_accepting s ovs accepting⟩
    | eos => exact ⟨_, exec_eos_of_accepting s accepting⟩
    | illegal w => exact ⟨_, exec_illegal_of_accepting s w accepting⟩

/-- Settles O10: the control state that each of the five outcomes of a command writes. -/
theorem controlTransitions : Obligations.ControlTransitions := by
  intro i s t run
  obtain ⟨-, outcome⟩ := exec_next_cases i s t run
  rcases outcome with ⟨x, rfl, rfl⟩ | ⟨ovs, rfl, idle, rfl⟩ | ⟨ovs, rfl, notIdle, rfl⟩ | ⟨rfl, rfl⟩ | ⟨w, rfl, rfl⟩
  · simp
  · simp [idle]
  · simp [notIdle]
  · rfl
  · rfl

/-- Settles O15: a word of no row decodes to an illegal command, the two words of SETMODE's row to SETMODE; each
then meets RUN. -/
theorem decodingDecidesTheErrorFirst : Obligations.DecodingDecidesTheErrorFirst := by
  intro s w rest run offered
  have runAfter : (s.consume rest).ctl = .run := run
  rw [step_of_accepting s w rest (.inr run) offered]
  constructor
  · intro notPush notSetmode notEos
    have whole : w &&& 0xFFFF = w := BitVec.and_allOnes
    have illegal : decode w = .illegal w := by
      rw [decodeAgreesWithMatchAndMask w, if_neg notPush, if_neg notSetmode, whole, if_neg notEos]
    rw [illegal, exec_illegal_of_accepting _ w (.inr runAfter)]
    rfl
  · intro isSetmode
    have setmode : ∃ ovs, decode w = .setmode ovs := by
      rcases isSetmode with rfl | rfl
      · exact ⟨false, by decide⟩
      · exact ⟨true, by decide⟩
    obtain ⟨ovs, setmode⟩ := setmode
    rw [setmode, exec_setmode_of_run _ ovs runAfter]
    rfl

/-! ### Frames -/

/-- Settles O20: of the three parts of a PUSH the write touches the ring, at `p` alone, and the emitter the output,
which it extends. -/
theorem pushFrame : Obligations.PushFrame := by
  intro s t x run
  obtain ⟨-, rfl⟩ := execPush_next s t x run
  refine ⟨fun a other => ?_, by simp, by simp, by simp, by simp, by simp, ?_⟩
  · simp [Memory.read_write_other _ _ _ _ other]
  · rw [State.emitStep_out]
    split <;> simp

/-- A command other than PUSH writes at most MODE, `ctl` and `err` (R234 to R236). -/
theorem exec_control_frame (i : Instr) (s t : State) (notPush : ∀ x, i ≠ .push x) (run : exec i s = .next t) :
    t = { s with ovs := t.ovs, ctl := t.ctl, err := t.err } := by
  obtain ⟨-, outcome⟩ := exec_next_cases i s t run
  rcases outcome with ⟨x, isPush, -⟩ | ⟨ovs, -, -, rfl⟩ | ⟨ovs, -, -, rfl⟩ | ⟨-, rfl⟩ | ⟨w, -, rfl⟩
  case inl => exact absurd isPush (notPush x)
  all_goals rfl

/-- Settles O21: the frame, and the field that each of the four outcomes of such a command writes. -/
theorem controlCommandsFrame : Obligations.ControlCommandsFrame := by
  intro i s t notPush run
  have frame := exec_control_frame i s t notPush run
  refine ⟨fun a => by rw [frame], frame, ?_⟩
  obtain ⟨-, outcome⟩ := exec_next_cases i s t run
  rcases outcome with ⟨x, isPush, -⟩ | ⟨ovs, isSetmode, idle, rfl⟩ | ⟨ovs, -, -, rfl⟩ | ⟨-, rfl⟩ | ⟨w, -, rfl⟩
  · exact absurd isPush (notPush x)
  · exact ⟨fun _ => rfl, fun notIdle => absurd idle notIdle, fun other => absurd isSetmode (other ovs)⟩
  · exact ⟨fun notFault => absurd rfl notFault, fun _ => rfl, fun _ => rfl⟩
  · exact ⟨fun _ => rfl, fun _ => rfl, fun _ => rfl⟩
  · exact ⟨fun notFault => absurd rfl notFault, fun _ => rfl, fun _ => rfl⟩

/-- Settles O22: a command other than PUSH does not write the output, and in a PUSH only the emitter does, which
emits one unit or nothing. -/
theorem outputGrowsByAtMostOneUnit : Obligations.OutputGrowsByAtMostOneUnit := by
  intro i s t run
  cases i with
  | push x =>
    obtain ⟨-, rfl⟩ := execPush_next s t x run
    rcases (s.afterWrite x).trackStep.emitStep_cases with ⟨-, emits⟩ | ⟨-, emits⟩
    · refine .inr ⟨x, (s.afterWrite x).trackStep.unitByte, rfl, ?_⟩
      rw [emits, State.emitUnit_out]
      simp [State.ospb]
    · refine .inl ?_
      rw [emits]
      simp
  | setmode _ | eos | illegal _ =>
    refine .inl ?_
    rw [exec_control_frame _ s t (by simp) run]

/-! ### The tracker's outcomes -/

/-- The four states that a tracker step can answer, each with what it came from (R185). -/
theorem State.trackStep_outcomes (s : State) :
    (s.corr.aboveThres ∧ s.maxCorr < s.corr.signedSq ∧ s.trackStep = s.recordBest s.corr) ∨
    s.trackStep = s ∨
    (gate s.cfg s.hdr s.pos ∧ ¬ s.corr.aboveThres ∧ s.tracking ∧ s.trackStep = s.commit) ∨
    (s.hdr ≠ 0 ∧ s.trackStep = s.advanceHdr) := by
  rcases s.trackStep_cases with
    ⟨-, above, better, e⟩ | ⟨-, -, -, e⟩ | ⟨gated, below, tracking, e⟩ | ⟨-, -, -, e⟩ | ⟨-, ⟨field, -⟩, e⟩ | ⟨-, -, e⟩
  · exact .inl ⟨above, better, e⟩
  · exact .inr (.inl e)
  · exact .inr (.inr (.inl ⟨gated, below, tracking, e⟩))
  · exact .inr (.inl e)
  · exact .inr (.inr (.inr ⟨field, e⟩))
  · exact .inr (.inl e)

/-- A tracker step commits header 0, or it keeps position and polarity and does not go from header 0 to another. -/
theorem State.trackStep_keeps_pos_polarity (s : State) :
    (s.hdr = 0 ∧ s.trackStep.hdr = 1 ∧ s.trackStep.pos = 0) ∨
    (¬ (s.hdr = 0 ∧ s.trackStep.hdr = 1) ∧ s.trackStep.pos = s.pos ∧ s.trackStep.polarity = s.polarity) := by
  rcases s.trackStep_outcomes with ⟨-, -, e⟩ | e | ⟨-, -, -, e⟩ | ⟨field, e⟩
  · refine .inr ⟨?_, by simp [e], by simp [e]⟩
    rintro ⟨main, moved⟩
    simp [e, main] at moved
  · refine .inr ⟨?_, by rw [e], by rw [e]⟩
    rintro ⟨main, moved⟩
    simp [e, main] at moved
  · by_cases main : s.hdr = 0
    · exact .inl ⟨main, by simp [e, main], by simp [e, State.commit_pos, main]⟩
    · exact .inr ⟨fun h => main h.1, by simp [e, State.commit_pos, main], by simp [e, State.commit_polarity, main]⟩
  · exact .inr ⟨fun h => field h.1, by simp [e], by simp [e]⟩

/-- Settles O23: the tracker alone decides whether the counted position stays, and with it the polarity. -/
theorem onlyMainCommitClearsPosAndWritesPolarity : Obligations.OnlyMainCommitClearsPosAndWritesPolarity := by
  intro s t x run
  obtain ⟨-, rfl⟩ := execPush_next s t x run
  rw [State.emitStep_pos, State.emitStep_hdr, State.emitStep_polarity]
  rcases (s.afterWrite x).trackStep_keeps_pos_polarity with ⟨main, moved, cleared⟩ | ⟨noMainCommit, pos, polarity⟩
  · exact ⟨cleared.trans (if_pos ⟨main, moved⟩).symm, fun h => absurd ⟨main, moved⟩ h⟩
  · exact ⟨pos.trans (if_neg noMainCommit).symm, fun _ => polarity⟩

end Sys2Proof.Machine
end

section
/-! PROOFS. The ring along a run (10_state.md section 6, 20_memory.md, 40_buffer.md, 70_reset_and_hazards.md): the
most recent samples, and the cells behind the head. -/

namespace Sys2Proof

/-- A ring index stands for its argument mod B (R9). -/
theorem ringIdx_modEq (n : Nat) (i : Int) (h : 0 < n) : (ringIdx n i : Int) ≡ i [ZMOD n] := by
  rw [ringIdx_cast n i h]
  exact Int.mod_modEq i n

/-- Two numbers less than B apart are in different classes mod B. -/
theorem mod_ne_mod_of_lt_add (n i j : Nat) (above : i < j) (near : j < i + n) : i % n ≠ j % n := by
  intro same
  have multiple : n ∣ j - i := (Nat.modEq_iff_dvd' above.le).mp same
  have least := Nat.le_of_dvd (by omega) multiple
  omega

/-- A cell `d` behind another is another cell, for `d` from 1 to `B - 1`. -/
theorem ringIdx_sub_ne (n d : Nat) (i : Int) (least : 1 ≤ d) (near : d < n) : ringIdx n (i - d) ≠ ringIdx n i := by
  intro same
  have offsets := ringIdx_add_inj n (i - d) 0 d (by omega) near (by simpa using same)
  omega

namespace Machine

/-- What an accepted PUSH leaves in the ring and the head (R100): the tracker and the emitter write neither. -/
theorem exec_push_ring (s t : State) (x : Byte) (run : exec (.push x) s = .next t) :
    t.cfg = s.cfg ∧ t.buf = s.buf.write (ringIdx s.cfg.ringSize s.p) x ∧
    t.p = ringIdx s.cfg.ringSize ((s.p : Int) + 1) := by
  obtain ⟨-, rfl⟩ := execPush_next s t x run
  simp

/-! ### The most recent samples -/

/-- After reset the ring holds the empty history (R291). -/
theorem State.resetWith_holdsRecent (c : Config) : (State.resetWith c).HoldsRecent [] where
  head := by simp
  recent i written := absurd written (Nat.not_lt_zero i)
  prefill i _ _ := Memory.read_nil i

/-- The write of one more sample adds it to the history that the ring holds (R100). -/
theorem State.HoldsRecent.of_write {s t : State} {x : Byte} {xs : List Byte} (holds : s.HoldsRecent xs)
    (canonical : s.buf.wf) (cfg : t.cfg = s.cfg)
    (buf : t.buf = s.buf.write (ringIdx s.cfg.ringSize s.p) x)
    (p : t.p = ringIdx s.cfg.ringSize ((s.p : Int) + 1)) : t.HoldsRecent (xs ++ [x]) := by
  have head : ringIdx s.cfg.ringSize s.p = xs.length % s.cfg.ringSize := by
    rw [ringIdx_natCast, holds.head, Nat.mod_mod]
  rw [head] at buf
  constructor
  case head =>
    have next : t.p = (s.p + 1) % s.cfg.ringSize := p.trans (mod_cast ringIdx_natCast s.cfg.ringSize (s.p + 1))
    rw [next, cfg, holds.head, Nat.mod_add_mod, List.length_append, List.length_singleton]
  case recent =>
    intro i written inRing
    rw [List.length_append, List.length_singleton] at written inRing
    rw [cfg] at inRing ⊢
    rcases Nat.lt_succ_iff_lt_or_eq.mp written with older | rfl
    · have otherCell := mod_ne_mod_of_lt_add s.cfg.ringSize i xs.length older (by omega)
      rw [buf, Memory.read_write_other _ _ _ _ otherCell, holds.recent i older (by omega),
        List.getD_append _ _ _ _ older]
    · rw [buf, Memory.read_write_same _ _ _ canonical]
      simp
  case prefill =>
    intro i notWritten inRing
    rw [List.length_append, List.length_singleton] at notWritten
    rw [cfg] at inRing
    have otherCell : i ≠ xs.length % s.cfg.ringSize := by
      rw [Nat.mod_eq_of_lt (by omega)]
      omega
    rw [buf, Memory.read_write_other _ _ _ _ otherCell, holds.prefill i (by omega) inRing]

/-- Settles O27: reset gives the empty history, and a PUSH writes the ring as WRITE does. -/
theorem ringHoldsTheMostRecentSamples : Obligations.RingHoldsTheMostRecentSamples := by
  refine ⟨fun c => ⟨State.resetWith_holdsRecent c, Memory.nil_wf⟩, ?_⟩
  intro s t x _ canonical run
  obtain ⟨cfg, buf, p⟩ := exec_push_ring s t x run
  constructor
  · rw [buf]
    exact Memory.write_wf _ _ _ canonical
  · intro xs holds
    exact holds.of_write canonical cfg buf p

/-! ### The cells behind the head -/

/-- Reads see their index mod B only (R52). -/
theorem State.ringRead_congr (s : State) (i j : Int) (h : i ≡ j [ZMOD s.cfg.ringSize]) :
    s.ringRead i = s.ringRead j := by
  rw [State.ringRead, State.ringRead, State.idx, State.idx, ringIdx_congr _ i j h]

/-- No PUSH writes the configuration (R20). -/
theorem PushRun.cfg {s t : State} {xs : List Byte} (run : PushRun s xs t) : t.cfg = s.cfg := by
  induction run with
  | nil s => rfl
  | cons s u t x xs first _ ih => exact ih.trans (exec_push_ring s u x first).1

/-- A PUSH leaves the cells behind the head, up to `B - 1` of them (R100). -/
theorem exec_push_ringRead_behind (s t : State) (x : Byte) (d : Nat) (run : exec (.push x) s = .next t)
    (least : 1 ≤ d) (near : d < s.cfg.ringSize) : t.ringRead ((s.p : Int) - d) = s.ringRead ((s.p : Int) - d) := by
  obtain ⟨cfg, buf, -⟩ := exec_push_ring s t x run
  rw [State.ringRead, State.ringRead, State.idx, State.idx, cfg, buf]
  exact Memory.read_write_other _ _ _ _ (ringIdx_sub_ne _ d _ least near)

/-- A run of `n` PUSHes leaves the cell `d` behind the head as it was, as long as `d + n` is at most B. -/
theorem PushRun.ringRead_behind {s t : State} {xs : List Byte} (run : PushRun s xs t) :
    ∀ d : Nat, 1 ≤ d → d + xs.length ≤ s.cfg.ringSize →
      t.ringRead ((s.p : Int) - d) = s.ringRead ((s.p : Int) - d) := by
  induction run with
  | nil s => intros; rfl
  | cons s u t x xs first rest ih =>
    intro d least near
    rw [List.length_cons] at near
    obtain ⟨cfg, -, p⟩ := exec_push_ring s u x first
    have moved : (u.p : Int) - (d + 1 : Nat) ≡ s.p - d [ZMOD s.cfg.ringSize] := by
      have head : (u.p : Int) ≡ s.p + 1 [ZMOD s.cfg.ringSize] := p ▸ ringIdx_modEq _ _ (by omega)
      have both := head.sub_right ((d + 1 : Nat) : Int)
      rwa [show ((s.p : Int) + 1) - (d + 1 : Nat) = s.p - d by push_cast; ring] at both
    calc t.ringRead ((s.p : Int) - d)
        = t.ringRead ((u.p : Int) - (d + 1 : Nat)) :=
          t.ringRead_congr _ _ (by rw [rest.cfg, cfg]; exact moved.symm)
      _ = u.ringRead ((u.p : Int) - (d + 1 : Nat)) := ih (d + 1) (by omega) (by rw [cfg]; omega)
      _ = u.ringRead ((s.p : Int) - d) := u.ringRead_congr _ _ (by rw [cfg]; exact moved)
      _ = s.ringRead ((s.p : Int) - d) := exec_push_ringRead_behind s u x d first least (by omega)

/-- The best window of a best recorded at head `p` begins `L[0]` behind that head (R175, R179). -/
theorem State.bestWindow_modEq (t : State) (p : Int) (pos : 0 < t.cfg.ringSize)
    (recorded : t.newStart = ringIdx t.cfg.ringSize (p + t.cfg.spb - 1)) :
    (t.bestWindow : Int) ≡ p - t.cfg.len 0 [ZMOD t.cfg.ringSize] := by
  have start : (t.newStart : Int) ≡ p + t.cfg.spb - 1 [ZMOD t.cfg.ringSize] := recorded ▸ ringIdx_modEq _ _ pos
  have shifted := (start.sub_right ((t.cfg.spb : Int) - 1)).sub_right (t.cfg.len 0 : Int)
  rw [show p + t.cfg.spb - 1 - ((t.cfg.spb : Int) - 1) - t.cfg.len 0 = p - t.cfg.len 0 by ring] at shifted
  exact (ringIdx_modEq _ _ pos).trans shifted

/-- Settles O48: the best window is the `L[0]` cells behind the head of the recording PUSH, and the run is too short
to overwrite them. -/
theorem bestWindowStaysIntact : Obligations.BestWindowStaysIntact := by
  intro s t xs pos recorded run kept short
  have window := t.bestWindow_modEq s.p (by rw [run.cfg]; exact pos) (by rw [kept, run.cfg]; exact recorded)
  rw [run.cfg] at window
  refine List.map_congr_left fun i inWindow => ?_
  have inside : i < s.cfg.len 0 := List.mem_range.mp inWindow
  have offset : (s.p : Int) - s.cfg.len 0 + i = s.p - (s.cfg.len 0 - i : Nat) := by
    rw [Nat.cast_sub inside.le]
    ring
  calc t.ringRead ((t.bestWindow : Int) + i)
      = t.ringRead ((s.p : Int) - s.cfg.len 0 + i) :=
        t.ringRead_congr _ _ (by rw [run.cfg]; exact window.add_right (i : Int))
    _ = s.ringRead ((s.p : Int) - s.cfg.len 0 + i) := by
        rw [offset]
        exact run.ringRead_behind _ (by omega) (by omega)

end Machine
end Sys2Proof
end

section
/-! PROOFS. The invariants of the state that every step keeps (10_state.md sections 4 and 6, 60_exceptions.md,
70_reset_and_hazards.md): the ranges of the registers, the status, and the block in IDLE; and that a stale
`new_start` is unobservable. -/

namespace Sys2Proof.Machine

/-! ### The ranges of the registers -/

theorem State.Ranges.ringSize_pos {s : State} (h : s.Ranges) : 0 < s.cfg.ringSize := by
  obtain ⟨⟨least, -⟩, -⟩ := h.legal
  omega

/-- The ranges hold after reset of a legal configuration (R291). -/
theorem State.resetWith_ranges (c : Config) (legal : c.Legal) : (State.resetWith c).Ranges :=
  have pos : 0 < c.ringSize := lt_of_lt_of_le Nat.zero_lt_two legal.1.1
  { legal := legal
    p := pos
    newStart := pos
    bitStart := ringIdx_lt _ _ pos
    pos := Nat.zero_le _
    maxCorr := .inl rfl
    bufWf := Memory.nil_wf
    bufIdx := nofun }

theorem tcA_legal : Config.tcA.Legal := by decide

/-- Settles O55: TC-A, the configuration of the model's reset state, is legal too. -/
theorem rangesAtReset : Obligations.RangesAtReset := ⟨State.resetWith_ranges _ tcA_legal, State.resetWith_ranges⟩

theorem State.Ranges.afterWrite {s : State} (h : s.Ranges) (x : Byte) : (s.afterWrite x).Ranges :=
  { h with
    p := (s.afterWrite_p x).trans_lt (ringIdx_lt _ _ h.ringSize_pos)
    pos := min_le_right _ _
    bufWf := Memory.write_wf _ _ _ h.bufWf
    bufIdx := Memory.write_idx_lt _ _ _ _ (ringIdx_lt _ _ h.ringSize_pos) h.bufIdx }

theorem State.Ranges.recordBest {s : State} (h : s.Ranges) (above : s.corr.aboveThres) :
    (s.recordBest s.corr).Ranges :=
  { h with
    newStart := s.idx_lt _ h.ringSize_pos
    maxCorr := .inr (s.thres_lt_corr_sq above) }

theorem State.Ranges.anchorMain {s : State} (h : s.Ranges) : s.anchorMain.Ranges := { h with pos := Nat.zero_le _ }

theorem State.Ranges.clockUpdate {s : State} (h : s.Ranges) : s.clockUpdate.Ranges :=
  have bitStart : s.clockUpdate.bitStart < s.cfg.ringSize := by
    rw [State.clockUpdate_bitStart]
    split
    · exact h.newStart
    · exact s.idx_lt _ h.ringSize_pos
  { h with bitStart := bitStart }

theorem State.Ranges.advanceHdr {s : State} (h : s.Ranges) : s.advanceHdr.Ranges := { h with maxCorr := .inl rfl }

theorem State.Ranges.commit {s : State} (h : s.Ranges) : s.commit.Ranges := by
  by_cases main : s.hdr = 0
  · rw [s.commit_main main]
    exact h.anchorMain.clockUpdate.advanceHdr
  · rw [s.commit_field main]
    exact h.clockUpdate.advanceHdr

theorem State.Ranges.trackStep {s : State} (h : s.Ranges) : s.trackStep.Ranges := by
  rcases s.trackStep_outcomes with ⟨above, -, e⟩ | e | ⟨-, -, -, e⟩ | ⟨-, e⟩ <;> rw [e]
  · exact h.recordBest above
  · exact h
  · exact h.commit
  · exact h.advanceHdr

theorem State.Ranges.emitStep {s : State} (h : s.Ranges) : s.emitStep.Ranges := by
  rcases s.emitStep_cases with ⟨-, e⟩ | ⟨-, e⟩ <;> rw [e]
  · exact { h with bitStart := s.emitUnit_bitStart.trans_lt (s.idx_lt _ h.ringSize_pos) }
  · exact h

/-- Every command keeps the ranges: PUSH part by part, and the others write no register that they speak of. -/
theorem exec_keeps_ranges (i : Instr) (s t : State) (h : s.Ranges) (run : exec i s = .next t) : t.Ranges := by
  obtain ⟨-, outcome⟩ := exec_next_cases i s t run
  rcases outcome with ⟨x, -, rfl⟩ | ⟨ovs, -, -, rfl⟩ | ⟨ovs, -, -, rfl⟩ | ⟨-, rfl⟩ | ⟨w, -, rfl⟩
  case inl => exact (h.afterWrite x).trackStep.emitStep
  all_goals exact { h with }

/-- Settles O56: a step is a reset, of a configuration that the ranges say is legal, or a command. -/
theorem stepKeepsRanges : Obligations.StepKeepsRanges := by
  intro s t h run
  rcases step_next_cases s t run with ⟨rest, -, rfl⟩ | ⟨w, rest, -, -, run⟩
  · exact { State.resetWith_ranges s.cfg h.legal with }
  · exact exec_keeps_ranges _ (s.consume rest) t { h with } run

/-! ### ctl and err -/

/-- A block that accepts commands has no error, and so a legal configuration (R33, R34). -/
theorem State.StatusOk.err_of_accepting {s : State} (h : s.StatusOk) (accepting : s.accepting) :
    s.err = errNone ∧ s.cfg.Legal := by
  have notFault : s.ctl ≠ .fault := fun fault => s.not_accepting_of_ended (.inr fault) accepting
  have noError : s.err = errNone := not_not.mp fun error => notFault (h.faultErr.mpr error)
  refine ⟨noError, not_not.mp fun illegal => ?_⟩
  have config := h.config.mpr illegal
  rw [noError] at config
  exact absurd config (by decide)

/-- A status without an error (R33, R34). -/
theorem State.StatusOk.of_noError {s : State} (notFault : s.ctl ≠ .fault) (noError : s.err = errNone)
    (legal : s.cfg.Legal) : s.StatusOk where
  faultErr := ⟨fun fault => absurd fault notFault, fun error => absurd noError error⟩
  codes := .inl noError
  config := ⟨fun config => absurd (noError.symm.trans config) (by decide), fun illegal => absurd legal illegal⟩

/-- The status of an illegal configuration (R263, R293). -/
theorem State.StatusOk.of_illegal {s : State} (fault : s.ctl = .fault) (code : s.err = errConfig)
    (illegal : ¬ s.cfg.Legal) : s.StatusOk where
  faultErr := ⟨fun _ => by rw [code]; decide, fun _ => fault⟩
  codes := .inr (.inl code)
  config := ⟨fun _ => illegal, fun _ => code⟩

/-- The status with an error that a command raised (R262, R264, R265). -/
theorem State.StatusOk.of_raised {s : State} (fault : s.ctl = .fault)
    (code : s.err = errIllegalCmd ∨ s.err = errModeLate) (legal : s.cfg.Legal) : s.StatusOk :=
  have other : s.err ≠ errNone ∧ s.err ≠ errConfig := by
    rcases code with code | code <;> rw [code] <;> decide
  { faultErr := ⟨fun _ => other.1, fun _ => fault⟩
    codes := .inr (.inr code)
    config := ⟨fun config => absurd config other.2, fun illegal => absurd legal illegal⟩ }

/-- The status after reset, by the legality of the configuration (R293). -/
theorem State.resetWith_statusOk (c : Config) : (State.resetWith c).StatusOk := by
  by_cases legal : c.Legal
  · have idle := State.resetWith_ctl_of_legal c legal
    exact .of_noError (by rw [idle]; decide) (State.resetWith_err_of_legal c legal) legal
  · exact .of_illegal (State.resetWith_ctl_of_not_legal c legal) (State.resetWith_err_of_not_legal c legal) legal

/-- Every command keeps the status: it is accepted without an error, and raises code 2 or 3 or none. -/
theorem exec_keeps_statusOk (i : Instr) (s t : State) (h : s.StatusOk) (run : exec i s = .next t) : t.StatusOk := by
  obtain ⟨accepting, outcome⟩ := exec_next_cases i s t run
  obtain ⟨noError, legal⟩ := h.err_of_accepting accepting
  rcases outcome with ⟨x, -, rfl⟩ | ⟨ovs, -, idle, rfl⟩ | ⟨ovs, -, -, rfl⟩ | ⟨-, rfl⟩ | ⟨w, -, rfl⟩
  · exact .of_noError (by simp) (by simpa using noError) (by simpa using legal)
  · exact .of_noError (by simp [idle]) noError legal
  · exact .of_raised rfl (.inr rfl) legal
  · exact .of_noError nofun noError legal
  · exact .of_raised rfl (.inl rfl) legal

/-- Settles O57: a reset starts from the status of reset, and every command keeps it. -/
theorem statusStaysConsistent : Obligations.StatusStaysConsistent := by
  refine ⟨State.resetWith_statusOk, fun s t h run => ?_⟩
  rcases step_next_cases s t run with ⟨rest, -, rfl⟩ | ⟨w, rest, -, -, run⟩
  · exact { State.resetWith_statusOk s.cfg with }
  · exact exec_keeps_statusOk _ (s.consume rest) t { h with } run

/-! ### The block in IDLE -/

/-- Every command keeps a fresh block fresh: only SETMODE stays in IDLE, and it writes MODE alone. -/
theorem exec_keeps_fresh (i : Instr) (s t : State) (h : s.Fresh) (run : exec i s = .next t) : t.Fresh := by
  intro idleAfter
  obtain ⟨-, outcome⟩ := exec_next_cases i s t run
  rcases outcome with ⟨x, -, rfl⟩ | ⟨ovs, -, idle, rfl⟩ | ⟨ovs, -, -, rfl⟩ | ⟨-, rfl⟩ | ⟨w, -, rfl⟩
  case inr.inl =>
    conv_lhs => rw [h idle]
    rfl
  all_goals simp at idleAfter

/-- Settles O58: reset leaves a fresh block, and taking an event leaves it one. -/
theorem idleIsFresh : Obligations.IdleIsFresh := by
  refine ⟨fun c _ => rfl, fun s t h run => ?_⟩
  rcases step_next_cases s t run with ⟨rest, -, rfl⟩ | ⟨w, rest, -, -, run⟩
  · exact fun _ => rfl
  · refine exec_keeps_fresh _ (s.consume rest) t (fun idle => ?_) run
    conv_lhs => rw [h idle]
    rfl

/-! ### A stale `new_start` -/

/-- The state with another `new_start`. -/
def State.withNewStart (s : State) (n : Nat) : State := { s with newStart := n }

theorem sameButStaleStart_iff (s t : State) :
    SameButStaleStart s t ↔ s = t ∨ (s.maxCorr = 0 ∧ ∃ n, t = s.withNewStart n) := by
  refine or_congr_right (and_congr_right fun _ => ⟨fun e => ⟨_, e⟩, ?_⟩)
  rintro ⟨n, rfl⟩
  rfl

theorem SameButStaleStart.withNewStart (s : State) (n : Nat) (searching : s.maxCorr = 0) :
    SameButStaleStart s (s.withNewStart n) := .inr ⟨searching, rfl⟩

/-- No score of the most recent window reads `new_start` (R174). -/
theorem State.corr_withNewStart (s : State) (n : Nat) : (s.withNewStart n).corr = s.corr := rfl

/-- While searching, a new best overwrites `new_start`, nothing is committed, and nothing else reads it (R185). -/
theorem SameButStaleStart.trackStep {s t : State} (h : SameButStaleStart s t) :
    SameButStaleStart s.trackStep t.trackStep := by
  rcases (sameButStaleStart_iff s t).mp h with rfl | ⟨searching, n, rfl⟩
  · exact .inl rfl
  rcases s.trackStep_cases with
    ⟨gated, above, better, e⟩ | ⟨gated, above, noBetter, e⟩ | ⟨-, -, tracking, -⟩ | ⟨gated, below, notTracking, e⟩ |
    ⟨-, due, e⟩ | ⟨notGated, notDue, e⟩
  · rw [e, (s.withNewStart n).trackStep_of_best gated above better]
    exact .inl rfl
  · rw [e, (s.withNewStart n).trackStep_of_noBetter gated above noBetter]
    exact .withNewStart s n searching
  · exact absurd searching (ne_of_gt tracking)
  · rw [e, (s.withNewStart n).trackStep_of_searching gated below notTracking]
    exact .withNewStart s n searching
  · rw [e, (s.withNewStart n).trackStep_of_forceDue due]
    exact .withNewStart s.advanceHdr n rfl
  · have same : (s.withNewStart n).trackStep = s.withNewStart n := (if_neg notGated).trans (if_neg notDue)
    rw [e, same]
    exact .withNewStart s n searching

/-- The emitter does not read `new_start`. -/
theorem SameButStaleStart.emitStep {s t : State} (h : SameButStaleStart s t) :
    SameButStaleStart s.emitStep t.emitStep := by
  rcases (sameButStaleStart_iff s t).mp h with rfl | ⟨searching, n, rfl⟩
  · exact .inl rfl
  have same : (s.withNewStart n).emitStep = s.emitStep.withNewStart n := by
    rcases s.emitStep_cases with ⟨due, e⟩ | ⟨notDue, e⟩ <;> rw [e]
    · exact if_pos due
    · exact if_neg notDue
  rw [same]
  exact .withNewStart _ n (by simpa using searching)

/-- Related states take the same command to related states. -/
theorem exec_keeps_sameButStaleStart (i : Instr) (s t s' : State) (h : SameButStaleStart s t)
    (run : exec i s = .next s') : ∃ t', exec i t = .next t' ∧ SameButStaleStart s' t' := by
  rcases (sameButStaleStart_iff s t).mp h with rfl | ⟨searching, n, rfl⟩
  · exact ⟨s', run, .inl rfl⟩
  obtain ⟨accepting, outcome⟩ := exec_next_cases i s s' run
  have accepting' : (s.withNewStart n).accepting := accepting
  rcases outcome with ⟨x, rfl, rfl⟩ | ⟨ovs, rfl, idle, rfl⟩ | ⟨ovs, rfl, notIdle, rfl⟩ | ⟨rfl, rfl⟩ | ⟨w, rfl, rfl⟩
  · have written := SameButStaleStart.withNewStart (s.afterWrite x) n searching
    exact ⟨_, exec_push_of_accepting _ x accepting', written.trackStep.emitStep⟩
  · exact ⟨_, exec_setmode_of_idle _ ovs idle, .withNewStart (s.setMode ovs) n searching⟩
  · exact ⟨_, exec_setmode_of_run _ ovs (accepting.resolve_left notIdle),
      .withNewStart (s.raiseFault errModeLate) n searching⟩
  · exact ⟨_, exec_eos_of_accepting _ accepting', .withNewStart s.toDone n searching⟩
  · exact ⟨_, exec_illegal_of_accepting _ w accepting', .withNewStart (s.raiseFault errIllegalCmd) n searching⟩

/-- Related states offer the host the same output and status. -/
theorem SameButStaleStart.observed {s t : State} (h : SameButStaleStart s t) :
    t.out = s.out ∧ t.status = s.status := by
  rcases (sameButStaleStart_iff s t).mp h with rfl | ⟨-, n, rfl⟩ <;> exact ⟨rfl, rfl⟩

/-- Related states take the same step to related states: a reset to the same state, a command by its meaning. -/
theorem step_keeps_sameButStaleStart (s t s' : State) (h : SameButStaleStart s t) (run : step s = .next s') :
    ∃ t', step t = .next t' ∧ SameButStaleStart s' t' := by
  rcases (sameButStaleStart_iff s t).mp h with rfl | ⟨searching, n, rfl⟩
  · exact ⟨s', run, .inl rfl⟩
  rcases step_next_cases s s' run with ⟨rest, offered, rfl⟩ | ⟨w, rest, offered, accepting, run⟩
  · exact ⟨_, step_of_reset _ rest offered, .inl rfl⟩
  · rw [step_of_accepting (s.withNewStart n) w rest accepting offered]
    exact exec_keeps_sameButStaleStart _ _ _ s' (.withNewStart (s.consume rest) n searching) run

/-- Settles O49: the relation is kept by every step, and related states are observed alike. -/
theorem staleStartIsUnobservable : Obligations.StaleStartIsUnobservable := by
  intro s t s' h run
  obtain ⟨t', run', related⟩ := step_keeps_sameButStaleStart s t s' h run
  exact ⟨t', run', related, related.observed⟩

end Sys2Proof.Machine
end

section
/-! PROOFS. The sums of templates and windows, and the range and the special values of the score (40_buffer.md,
41_templates.md, 42_correlation.md). -/

namespace Sys2Proof

/-! ### The sum of a template -/

/-- The values of the first `n` header bits sum to the ones less the zeros (R132). -/
theorem sum_bitVal_range (bit : Nat → Bool) (n : Nat) :
    ((List.range n).map fun j => bitVal (bit j)).sum =
      ((List.range n).countP bit : Int) - ((List.range n).countP fun j => !bit j : Nat) := by
  induction n with
  | zero => rfl
  | succ n ih =>
    rw [List.range_succ, List.map_append, List.sum_append, ih]
    cases h : bit n <;> simp [h, bitVal] <;> ring

/-- A value repeated SPB times for each of `n` bits sums to SPB times the values (R133). -/
theorem sum_repeated_range (value : Nat → Int) (spb n : Nat) :
    ((List.range (n * spb)).map fun i => value (i / spb)).sum = spb * ((List.range n).map value).sum := by
  induction n with
  | zero => simp
  | succ n ih =>
    have period : (List.range spb).map (fun r => value ((n * spb + r) / spb)) = List.replicate spb (value n) := by
      refine List.eq_replicate_iff.mpr ⟨by simp, fun v member => ?_⟩
      obtain ⟨r, inPeriod, rfl⟩ := List.mem_map.mp member
      have below := List.mem_range.mp inPeriod
      rw [Nat.mul_comm, Nat.mul_add_div (by omega), Nat.div_eq_of_lt below, Nat.add_zero]
    rw [Nat.succ_mul, List.range_add, List.map_append, List.map_map, List.sum_append, ih]
    simp [Function.comp_def, period, List.range_succ]
    ring

namespace Machine

/-- Settles O29: the template repeats each bit's value SPB times, and a bit's value counts the ones up and the zeros
down. -/
theorem templateSumIsOnesLessZeros : Obligations.TemplateSumIsOnesLessZeros := by
  intro c k
  rw [← sum_bitVal_range]
  exact sum_repeated_range (fun j => bitVal (c.hbit k j)) c.spb (8 * c.nb k)

end Machine
end Sys2Proof
end

section
/-! PROOFS. Sums of products of two lists of one length, and their spread: what the variances and the score of
42_correlation.md are made of. -/

namespace Sys2Proof

/-- The sum of the products of two lists' members, place by place. -/
def dot {R : Type} [CommRing R] (l m : List R) : R := (List.zipWith (· * ·) l m).sum

/-- `n * dot - sum * sum`: `n^2` times the covariance of two lists, and of a list with itself its variance. -/
def coSpread {R : Type} [CommRing R] (l m : List R) : R := l.length * dot l m - l.sum * m.sum

section Ring
variable {R : Type} [CommRing R]

@[simp] theorem dot_nil : dot ([] : List R) [] = 0 := rfl

@[simp] theorem dot_cons (x v : R) (l m : List R) : dot (x :: l) (v :: m) = x * v + dot l m := by
  simp [dot]

theorem dot_comm (l m : List R) : dot l m = dot m l := by
  rw [dot, dot, List.zipWith_comm_of_comm mul_comm]

theorem coSpread_comm (l m : List R) (h : l.length = m.length) : coSpread l m = coSpread m l := by
  rw [coSpread, coSpread, dot_comm, h, mul_comm l.sum]

theorem sum_map_affine (a o : R) (l : List R) : (l.map fun v => a * v + o).sum = a * l.sum + l.length * o := by
  induction l with
  | nil => simp
  | cons v l ih =>
    rw [List.map_cons, List.sum_cons, ih, List.sum_cons, List.length_cons]
    push_cast
    ring

theorem dot_map_affine (a o : R) (l m : List R) (h : l.length = m.length) :
    dot (l.map fun v => a * v + o) m = a * dot l m + o * m.sum := by
  induction l generalizing m with
  | nil =>
    obtain rfl := List.eq_nil_of_length_eq_zero h.symm
    simp
  | cons v l ih =>
    obtain ⟨u, m, rfl⟩ := List.exists_cons_of_length_eq_add_one h.symm
    rw [List.map_cons, dot_cons, ih m (by simpa using h), dot_cons, List.sum_cons]
    ring

/-- An offset of a list does not change its covariance with another, and a scale scales it. -/
theorem coSpread_map_affine (a o : R) (l m : List R) (h : l.length = m.length) :
    coSpread (l.map fun v => a * v + o) m = a * coSpread l m := by
  rw [coSpread, coSpread, dot_map_affine a o l m h, sum_map_affine, List.length_map, h]
  ring

theorem coSpread_map_affine_self (a o : R) (l : List R) :
    coSpread (l.map fun v => a * v + o) (l.map fun v => a * v + o) = a ^ 2 * coSpread l l := by
  have len : l.length = (l.map fun v => a * v + o).length := by simp
  rw [coSpread_map_affine a o l _ len, coSpread_comm _ _ len, coSpread_map_affine a o l l rfl]
  ring

/-- A list of equal members has no covariance with another. -/
theorem coSpread_replicate (x : R) (m : List R) : coSpread (List.replicate m.length x) m = 0 := by
  have scaled := coSpread_map_affine 0 x m m rfl
  simpa using scaled

/-- The members of two lists combined place by place. -/
def combine (a b : R) (l m : List R) : List R := List.zipWith (fun x v => a * x + b * v) l m

@[simp] theorem combine_nil (a b : R) : combine a b [] [] = [] := rfl

theorem combine_cons (a b x v : R) (l m : List R) :
    combine a b (x :: l) (v :: m) = (a * x + b * v) :: combine a b l m := rfl

theorem sum_combine (a b : R) (l m : List R) (h : l.length = m.length) :
    (combine a b l m).sum = a * l.sum + b * m.sum := by
  induction l generalizing m with
  | nil =>
    obtain rfl := List.eq_nil_of_length_eq_zero h.symm
    simp
  | cons x l ih =>
    obtain ⟨v, m, rfl⟩ := List.exists_cons_of_length_eq_add_one h.symm
    rw [combine_cons, List.sum_cons, ih m (by simpa using h), List.sum_cons, List.sum_cons]
    ring

theorem dot_combine_self (a b : R) (l m : List R) (h : l.length = m.length) :
    dot (combine a b l m) (combine a b l m) = a ^ 2 * dot l l + 2 * (a * b) * dot l m + b ^ 2 * dot m m := by
  induction l generalizing m with
  | nil =>
    obtain rfl := List.eq_nil_of_length_eq_zero h.symm
    simp
  | cons x l ih =>
    obtain ⟨v, m, rfl⟩ := List.exists_cons_of_length_eq_add_one h.symm
    rw [combine_cons, dot_cons, ih m (by simpa using h), dot_cons, dot_cons, dot_cons]
    ring

/-- The spread is a quadratic form. -/
theorem coSpread_combine_self (a b : R) (l m : List R) (h : l.length = m.length) :
    coSpread (combine a b l m) (combine a b l m) =
      a ^ 2 * coSpread l l + 2 * (a * b) * coSpread l m + b ^ 2 * coSpread m m := by
  have len : (combine a b l m).length = l.length := by simp [combine, h]
  rw [coSpread, dot_combine_self a b l m h, sum_combine a b l m h, len, coSpread, coSpread, coSpread, ← h]
  ring

/-- The sum of the squares of the distances from one number to the members of a list. -/
theorem sum_sq_sub (x : R) (l : List R) :
    (l.map fun y => (x - y) ^ 2).sum = l.length * x ^ 2 - 2 * x * l.sum + dot l l := by
  induction l with
  | nil => simp
  | cons y l ih =>
    rw [List.map_cons, List.sum_cons, ih, List.length_cons, List.sum_cons, dot_cons]
    push_cast
    ring

/-- One more member adds its squared distances from the others to the spread. -/
theorem coSpread_cons_self (x : R) (l : List R) :
    coSpread (x :: l) (x :: l) = coSpread l l + (l.map fun y => (x - y) ^ 2).sum := by
  rw [sum_sq_sub, coSpread, coSpread, dot_cons, List.length_cons, List.sum_cons]
  push_cast
  ring

end Ring

/-! ### Spreads of integers -/

theorem sum_sq_sub_nonneg (x : Int) (l : List Int) : 0 ≤ (l.map fun y => (x - y) ^ 2).sum :=
  List.sum_nonneg fun v member => by
    obtain ⟨y, -, rfl⟩ := List.mem_map.mp member
    exact sq_nonneg _

theorem coSpread_self_nonneg (l : List Int) : 0 ≤ coSpread l l := by
  induction l with
  | nil => simp [coSpread]
  | cons x l ih =>
    rw [coSpread_cons_self]
    exact add_nonneg ih (sum_sq_sub_nonneg x l)

theorem one_le_sq_sub (x y : Int) (h : x ≠ y) : 1 ≤ (x - y) ^ 2 :=
  Int.add_one_le_iff.mpr (sq_pos_of_ne_zero (sub_ne_zero.mpr h))

/-- Another number than a member of the list is at least one off it. -/
theorem one_le_sum_sq_sub (x : Int) (l : List Int) (h : ∃ y ∈ l, x ≠ y) : 1 ≤ (l.map fun y => (x - y) ^ 2).sum := by
  obtain ⟨y, inList, other⟩ := h
  refine (one_le_sq_sub x y other).trans (List.single_le_sum (fun v member => ?_) _ (List.mem_map_of_mem inList))
  obtain ⟨z, -, rfl⟩ := List.mem_map.mp member
  exact sq_nonneg _

/-- A number that is no member of the list is at least one off each member. -/
theorem length_le_sum_sq_sub (x : Int) (l : List Int) (h : ∀ y ∈ l, x ≠ y) :
    (l.length : Int) ≤ (l.map fun y => (x - y) ^ 2).sum := by
  induction l with
  | nil => simp
  | cons y l ih =>
    have first := one_le_sq_sub x y (h y List.mem_cons_self)
    have rest := ih fun z member => h z (List.mem_cons_of_mem _ member)
    rw [List.map_cons, List.sum_cons, List.length_cons]
    omega

/-- Integers that are not all equal spread by at least their number less one: one that is beside others that are not
all equal is off some member, and one beside equal others is off every member. -/
theorem length_sub_one_le_coSpread (l : List Int) (h : ∃ x ∈ l, ∃ y ∈ l, x ≠ y) :
    (l.length : Int) - 1 ≤ coSpread l l := by
  induction l with
  | nil =>
    obtain ⟨x, member, -⟩ := h
    exact absurd member List.not_mem_nil
  | cons x l ih =>
    rw [coSpread_cons_self, List.length_cons]
    by_cases spread : ∃ y ∈ l, ∃ z ∈ l, y ≠ z
    · have offSome : ∃ y ∈ l, x ≠ y := by
        obtain ⟨y, yIn, z, zIn, ne⟩ := spread
        by_cases e : x = y
        · exact ⟨z, zIn, e ▸ ne⟩
        · exact ⟨y, yIn, e⟩
      have rest := ih spread
      have added := one_le_sum_sq_sub x l offSome
      omega
    · push Not at spread
      have offEach : ∀ y ∈ l, x ≠ y := by
        rintro y yIn rfl
        obtain ⟨u, uIn, v, vIn, ne⟩ := h
        have equal : ∀ z ∈ x :: l, z = x := List.forall_mem_cons.mpr ⟨rfl, fun z zIn => spread z zIn x yIn⟩
        exact ne ((equal u uIn).trans (equal v vIn).symm)
      have rest := coSpread_self_nonneg l
      have added := length_le_sum_sq_sub x l offEach
      omega

/-- A form that is never negative has its middle coefficient bounded by the outer two. -/
theorem sq_le_mul_of_form_nonneg (a x b : Int) (h : ∀ u v : Int, 0 ≤ u ^ 2 * a + 2 * (u * v) * x + v ^ 2 * b) :
    x ^ 2 ≤ a * b := by
  have ha : 0 ≤ a := by simpa using h 1 0
  have hb : 0 ≤ b := by simpa using h 0 1
  rcases hb.eq_or_lt with rfl | pos
  · have form := h x (-(a + 1))
    have scaled : (a + 2) * x ^ 2 ≤ 0 := by linarith
    rw [mul_zero]
    exact nonpos_of_mul_nonpos_right scaled (by omega)
  · have form := h b (-x)
    have scaled : 0 ≤ b * (a * b - x ^ 2) := by linarith
    exact sub_nonneg.mp (nonneg_of_mul_nonneg_right scaled pos)

/-- The Cauchy-Schwarz inequality for the covariance of two lists of integers. -/
theorem sq_coSpread_le (l m : List Int) (h : l.length = m.length) :
    coSpread l m ^ 2 ≤ coSpread l l * coSpread m m :=
  sq_le_mul_of_form_nonneg _ _ _ fun a b => by
    rw [← coSpread_combine_self a b l m h]
    exact coSpread_self_nonneg _

end Sys2Proof
end

section
/-! PROOFS. The score's integer form, its range and its special values (40_buffer.md section 2, 42_correlation.md),
and the comparisons that the tracker makes on its exact representation (10_state.md section 2). -/

namespace Sys2Proof.Machine

/-! ### The integer sums as spreads -/

theorem windowSqSum_eq_dot (w : List Byte) : windowSqSum w = dot (w.map sampleVal) (w.map sampleVal) := by
  rw [windowSqSum_eq_sum_mul, dot, List.zipWith_self, List.map_map]
  rfl

theorem crossSum_eq_dot (w : List Byte) (t : List Int) : crossSum w t = dot (w.map sampleVal) t := by
  rw [crossSum, dot, List.zipWith_map_left]

theorem scoreX_eq_coSpread (w : List Byte) (t : List Int) : scoreX w t = coSpread (w.map sampleVal) t := by
  rw [scoreX, coSpread, crossSum_eq_dot, List.length_map]
  rfl

theorem scoreAs_eq_coSpread (w : List Byte) : scoreAs w = coSpread (w.map sampleVal) (w.map sampleVal) := by
  rw [scoreAs, coSpread, windowSqSum_eq_dot, List.length_map, sq]
  rfl

/-- The squares of a template of +1 and -1 sum to its length (R132). -/
theorem dot_self_of_sq_eq_one (t : List Int) (units : ∀ v ∈ t, v ^ 2 = 1) : dot t t = t.length := by
  have ones : t.map (fun v => v * v) = t.map fun _ => 1 :=
    List.map_congr_left fun v member => (sq v).symm.trans (units v member)
  rw [dot, List.zipWith_self, ones]
  simp

theorem scoreAt_eq_coSpread (t : List Int) (units : ∀ v ∈ t, v ^ 2 = 1) : scoreAt t = coSpread t t := by
  rw [scoreAt, coSpread, dot_self_of_sq_eq_one t units, sq, sq]
  rfl

/-! ### The integer form -/

theorem floored_eq_max (a : Int) (n : Nat) : floored a n = max (a : ℚ) ((n : ℚ) ^ 2 * sdFloor ^ 2) := by
  rw [max_comm, max_def]
  rfl

/-- `A_s` is the window's variance times `N^2` (R104, R151). -/
theorem scoreAs_eq_windowVar (w : List Byte) (pos : 0 < w.length) :
    (scoreAs w : ℚ) = (w.length : ℚ) ^ 2 * windowVar w := by
  have nonzero : (w.length : ℚ) ≠ 0 := Nat.cast_ne_zero.mpr pos.ne'
  rw [scoreAs, windowVar, windowMean]
  field_simp
  push_cast
  ring

/-- `Ds2` is the square of the floored deviation of the window times `N^2` (R104, R151). -/
theorem floored_scoreAs (w : List Byte) (pos : 0 < w.length) :
    floored (scoreAs w) w.length = (w.length : ℚ) ^ 2 * windowSdSq w := by
  rw [floored_eq_max, scoreAs_eq_windowVar w pos, windowSdSq, mul_max_of_nonneg _ _ (sq_nonneg _)]

/-- `Dt2` is the square of the floored deviation of the template times `N^2` (R136, R151). -/
theorem floored_scoreAt (t : List Int) (pos : 0 < t.length) :
    floored (scoreAt t) t.length = (t.length : ℚ) ^ 2 * templateSdSq t := by
  have nonzero : (t.length : ℚ) ≠ 0 := Nat.cast_ne_zero.mpr pos.ne'
  rw [floored_eq_max, templateSdSq, mul_max_of_nonneg _ _ (sq_nonneg _)]
  congr 1
  rw [scoreAt, templateMean]
  field_simp
  push_cast
  ring

/-- `X` is SCORE's numerator times `N^2` (R150, R151). -/
theorem scoreX_eq_scoreNum (w : List Byte) (t : List Int) (len : w.length = t.length) (pos : 0 < w.length) :
    (scoreX w t : ℚ) = (w.length : ℚ) ^ 2 * scoreNum w t := by
  have nonzero : (w.length : ℚ) ≠ 0 := Nat.cast_ne_zero.mpr pos.ne'
  rw [scoreX, scoreNum, correlate, windowMean, templateMean, ← len]
  field_simp
  push_cast
  ring

/-- The sign of an integer that is a positive multiple of a rational. -/
theorem sign_eq_ratSign (x : Int) (n r : ℚ) (pos : 0 < n) (h : (x : ℚ) = n * r) : x.sign = ratSign r := by
  rcases ratSign_cases r with ⟨sign, e⟩ | ⟨sign, e⟩ | ⟨sign, e⟩ <;> rw [e]
  · exact Int.sign_eq_one_iff_pos.mpr (by exact_mod_cast h ▸ mul_pos pos sign)
  · exact Int.sign_eq_neg_one_iff_neg.mpr (by exact_mod_cast h ▸ mul_neg_of_pos_of_neg pos sign)
  · rw [sign, mul_zero] at h
    rw [Int.cast_eq_zero.mp h, Int.sign_zero]

/-- Settles O32: numerator and denominator of the integer form are those of SCORE times `N^2` and its square; the
empty window scores 0 in both forms. -/
theorem integerFormEqualsScore : Obligations.IntegerFormEqualsScore := by
  intro w t len
  rcases Nat.eq_zero_or_pos w.length with empty | pos
  · obtain rfl := List.eq_nil_of_length_eq_zero empty
    obtain rfl := List.eq_nil_of_length_eq_zero (len.symm.trans empty)
    simp [scoreIntForm, scoreOf, scoreX, scoreNum, correlate, windowMean, windowSum_nil, ratSign]
  · have nonzero : (w.length : ℚ) ≠ 0 := Nat.cast_ne_zero.mpr pos.ne'
    have numerator := scoreX_eq_scoreNum w t len pos
    have sign : (scoreX w t).sign = ratSign (scoreNum w t) := sign_eq_ratSign _ _ _ (by positivity) numerator
    have deviationS := (windowSdSq_pos w).ne'
    have deviationT := (templateSdSq_pos t).ne'
    rw [scoreIntForm, scoreOf, sign, numerator, floored_scoreAs w pos, floored_scoreAt t (len ▸ pos), ← len,
      scoreDenSq]
    congr 1
    field_simp

/-! ### The range of the score -/

theorem le_floored (a : Int) (n : Nat) : (a : ℚ) ≤ floored a n := by
  rw [floored_eq_max]
  exact le_max_left _ _

/-- The square of a score is at most 1: Cauchy-Schwarz, and the floors only raise the denominator. -/
theorem scoreOf_sq_le_one (w : List Byte) (t : List Int) (len : w.length = t.length) (units : ∀ v ∈ t, v ^ 2 = 1) :
    (scoreOf w t).sq ≤ 1 := by
  have lengths : (w.map sampleVal).length = t.length := by simpa using len
  have bound : scoreX w t ^ 2 ≤ scoreAs w * scoreAt t := by
    rw [scoreX_eq_coSpread, scoreAs_eq_coSpread, scoreAt_eq_coSpread t units]
    exact sq_coSpread_le _ t lengths
  have atNonneg : 0 ≤ scoreAt t := scoreAt_eq_coSpread t units ▸ coSpread_self_nonneg t
  have asNonneg : 0 ≤ scoreAs w := scoreAs_eq_coSpread w ▸ coSpread_self_nonneg _
  rw [← integerFormEqualsScore w t len]
  refine div_le_one_of_le₀ ?_ ?_
  · calc (scoreX w t : ℚ) ^ 2
        ≤ scoreAs w * scoreAt t := mod_cast bound
      _ ≤ floored (scoreAs w) w.length * floored (scoreAt t) t.length := by
          gcongr
          · exact le_trans (mod_cast asNonneg) (le_floored _ _)
          · exact le_floored _ _
          · exact le_floored _ _
  · exact mul_nonneg (le_trans (mod_cast asNonneg) (le_floored _ _)) (le_trans (mod_cast atNonneg) (le_floored _ _))

/-- The real number that a score stands for is at most the root of its square. -/
theorem Score.SignOk.abs_real_le {v : Score} (h : v.SignOk) : |v.real| ≤ Real.sqrt (v.sq : ℝ) := by
  rw [Score.real, abs_mul, abs_of_nonneg (Real.sqrt_nonneg _)]
  refine mul_le_of_le_one_left (Real.sqrt_nonneg _) ?_
  rcases h with h | h | h <;> simp [h]

/-- Settles O33: the real score is the one that the pair stands for, and the pair's square is at most 1. -/
theorem scoreIsAtMostOne : Obligations.ScoreIsAtMostOne := by
  intro c k w len
  have square : (scoreOf w (c.tv k)).sq ≤ 1 :=
    scoreOf_sq_le_one w (c.tv k) (len.trans (c.tv_length k).symm) (c.tv_sq k)
  rw [← scoreIsTheRealScore w (c.tv k)]
  exact (scoreOf_signOk w (c.tv k)).abs_real_le.trans (Real.sqrt_le_one.mpr (mod_cast square))

/-- The square of `corr` is at most 1 (R173, R174). -/
theorem State.corr_sq_le_one (s : State) : s.corr.sq ≤ 1 := by
  rw [State.corr_sq]
  exact scoreOf_sq_le_one _ _ (by simp) (s.cfg.tv_sq s.hdr)

/-- Every command keeps the best at most 1: it stays, becomes a score's square, or is cleared. -/
theorem exec_keeps_maxCorr_le_one (i : Instr) (s t : State) (h : s.maxCorr ≤ 1) (run : exec i s = .next t) :
    t.maxCorr ≤ 1 := by
  obtain ⟨-, outcome⟩ := exec_next_cases i s t run
  rcases outcome with ⟨x, -, rfl⟩ | ⟨ovs, -, -, rfl⟩ | ⟨ovs, -, -, rfl⟩ | ⟨-, rfl⟩ | ⟨w, -, rfl⟩
  case inl =>
    rw [State.push_afterWrite, State.emitStep_maxCorr]
    rcases (s.afterWrite x).trackStep_outcomes with ⟨-, -, e⟩ | e | ⟨-, -, -, e⟩ | ⟨-, e⟩ <;> rw [e]
    · exact State.corr_sq_le_one _
    · exact h
    · simp
    · simp
  all_goals exact h

/-- Settles O59: the best is 0 after reset, and every command keeps it at most 1. -/
theorem bestNeverExceedsOne : Obligations.BestNeverExceedsOne := by
  refine ⟨fun c => zero_le_one, fun s t h run => ?_⟩
  rcases step_next_cases s t run with ⟨rest, -, rfl⟩ | ⟨w, rest, -, -, run⟩
  · exact zero_le_one
  · exact exec_keeps_maxCorr_le_one _ (s.consume rest) t h run

/-! ### Windows and headers that score 0 -/

theorem scoreOf_eq_zero (w : List Byte) (t : List Int) (len : w.length = t.length) (h : scoreX w t = 0) :
    scoreOf w t = ⟨0, 0⟩ := by
  rw [← integerFormEqualsScore w t len, scoreIntForm, h]
  simp

/-- A header whose bits are all equal has a constant template (R133). -/
theorem Config.tv_of_constant_header (c : Config) (k : HeaderIndex) (b : Bool)
    (constant : ∀ j, j < 8 * c.nb k → c.hbit k j = b) : c.tv k = List.replicate (c.len k) (bitVal b) := by
  refine List.eq_replicate_iff.mpr ⟨c.tv_length k, fun v member => ?_⟩
  obtain ⟨i, inTemplate, rfl⟩ := List.mem_map.mp member
  have within : i / c.spb < 8 * c.nb k := Nat.div_lt_of_lt_mul (by
    rw [Nat.mul_comm]
    exact List.mem_range.mp inTemplate)
  rw [constant _ within]

/-- Settles O34: a list of equal numbers has no covariance with another, on either side. -/
theorem constantWindowOrHeaderScoresZero : Obligations.ConstantWindowOrHeaderScoresZero := by
  constructor
  · intro x t
    refine scoreOf_eq_zero _ t (by simp) ?_
    rw [scoreX_eq_coSpread, List.map_replicate, coSpread_replicate]
  · intro s k b start constant
    refine scoreOf_eq_zero _ _ (by simp) ?_
    rw [scoreX_eq_coSpread, coSpread_comm _ _ (by simp), Config.tv_of_constant_header _ k b constant]
    simpa using coSpread_replicate (bitVal b) ((s.win start (s.cfg.len k)).map sampleVal)

/-! ### The least variance that is not 0 -/

/-- Below `2^31` members, a spread of at least their number less one is above the floor (R104, R107). -/
theorem floored_eq_self (a : Int) (n : Nat) (least : 2 ≤ n) (most : n ≤ 2 ^ 31) (h : (n : Int) - 1 ≤ a) :
    floored a n = a := by
  refine if_pos (ge_iff_le.mpr ?_)
  have two : (2 : ℚ) ≤ n := mod_cast least
  have limit : (n : ℚ) ≤ 2 ^ 31 := mod_cast most
  have spread : (n : ℚ) - 1 ≤ a := mod_cast h
  calc (n : ℚ) ^ 2 * sdFloor ^ 2 ≤ ((n : ℚ) * 2 ^ 31) * sdFloor ^ 2 := by
        rw [sq (n : ℚ)]
        gcongr
    _ = (n : ℚ) / 2 := by
        norm_num [sdFloor]
        ring
    _ ≤ a := by linarith

/-- A list with two different members has at least two. -/
theorem two_le_length_of_ne {α : Type} (l : List α) (h : ∃ x ∈ l, ∃ y ∈ l, x ≠ y) : 2 ≤ l.length := by
  obtain ⟨x, xIn, y, yIn, ne⟩ := h
  match l with
  | [] => exact absurd xIn List.not_mem_nil
  | [z] => exact absurd ((List.mem_singleton.mp xIn).trans (List.mem_singleton.mp yIn).symm) ne
  | _ :: _ :: _ => simp

/-- Different samples are different integers (R71). -/
theorem sampleVal_injective : Function.Injective sampleVal := fun _ _ h =>
  BitVec.eq_of_toNat_eq (Int.ofNat_inj.mp h)

/-- Samples that are not all equal have a spread of at least their number less one (R107). -/
theorem length_sub_one_le_scoreAs (w : List Byte) (different : ∃ x ∈ w, ∃ y ∈ w, x ≠ y) :
    (w.length : Int) - 1 ≤ scoreAs w := by
  obtain ⟨x, xIn, y, yIn, ne⟩ := different
  rw [scoreAs_eq_coSpread, ← List.length_map (f := sampleVal)]
  exact length_sub_one_le_coSpread _
    ⟨_, List.mem_map_of_mem xIn, _, List.mem_map_of_mem yIn, sampleVal_injective.ne ne⟩

/-- Settles O36: the spread of the samples as integers, and from it that the floor is not reached. -/
theorem leastNonZeroVariance : Obligations.LeastNonZeroVariance := by
  intro w different
  have least := two_le_length_of_ne w different
  have bound := length_sub_one_le_scoreAs w different
  refine ⟨bound, fun most => ?_⟩
  have pos : 0 < w.length := by omega
  have nonzero : (w.length : ℚ) ^ 2 ≠ 0 := pow_ne_zero 2 (Nat.cast_ne_zero.mpr pos.ne')
  have notFloored := floored_eq_self _ _ least most bound
  rw [floored_scoreAs w pos, scoreAs_eq_windowVar w pos] at notFloored
  exact mul_left_cancel₀ nonzero notFloored

/-! ### Windows that match the template -/

/-- The spread of integers as rationals is their spread as integers. -/
theorem coSpread_map_cast (l m : List Int) :
    coSpread (l.map ((↑) : Int → ℚ)) (m.map ((↑) : Int → ℚ)) = ((coSpread l m : Int) : ℚ) := by
  have products : dot (l.map ((↑) : Int → ℚ)) (m.map ((↑) : Int → ℚ)) = ((dot l m : Int) : ℚ) := by
    rw [dot, dot, Int.cast_list_sum, List.zipWith_map, List.map_zipWith]
    simp only [Int.cast_mul]
  rw [coSpread, coSpread, products, List.length_map]
  push_cast
  rfl

/-- A window that is a template scaled and offset, as rationals, has the template's spread scaled (R158). -/
theorem scoreX_scoreAs_of_affine (w : List Byte) (t : List Int) (a o : ℚ) (units : ∀ v ∈ t, v ^ 2 = 1)
    (matching : w.map (fun x => (sampleVal x : ℚ)) = (t.map ((↑) : Int → ℚ)).map fun v => a * v + o) :
    (scoreX w t : ℚ) = a * scoreAt t ∧ (scoreAs w : ℚ) = a ^ 2 * scoreAt t := by
  have affine : (w.map sampleVal).map ((↑) : Int → ℚ) = (t.map (↑)).map fun v => a * v + o := by
    rw [List.map_map]
    exact matching
  rw [scoreX_eq_coSpread, scoreAs_eq_coSpread, scoreAt_eq_coSpread t units]
  rw [← coSpread_map_cast, ← coSpread_map_cast, ← coSpread_map_cast, affine]
  exact ⟨coSpread_map_affine a o _ _ rfl, coSpread_map_affine_self a o _⟩

/-- A window that is a template of both values scaled and offset has two different samples. -/
theorem exists_ne_of_affine (w : List Byte) (t : List Int) (a o : ℚ) (scale : a ≠ 0)
    (matching : w.map (fun x => (sampleVal x : ℚ)) = (t.map ((↑) : Int → ℚ)).map fun v => a * v + o)
    (one : (1 : Int) ∈ t) (minusOne : (-1 : Int) ∈ t) : ∃ x ∈ w, ∃ y ∈ w, x ≠ y := by
  have sample (v : Int) (member : v ∈ t) : ∃ x ∈ w, (sampleVal x : ℚ) = a * v + o :=
    List.mem_map.mp (matching ▸ List.mem_map_of_mem (List.mem_map_of_mem member))
  obtain ⟨x, xIn, high⟩ := sample 1 one
  obtain ⟨y, yIn, low⟩ := sample (-1) minusOne
  refine ⟨x, xIn, y, yIn, fun same => scale ?_⟩
  rw [same, low] at high
  push_cast at high
  linarith

/-- A matching window scores the sign of its scale, with square 1: `X` is `a * A_t` and `A_s` is `a^2 * A_t`, and
neither `A` is below the floor. -/
theorem scoreOf_affine (w : List Byte) (t : List Int) (a o : ℚ) (scale : a ≠ 0) (most : t.length ≤ 2 ^ 31)
    (units : ∀ v ∈ t, v ^ 2 = 1)
    (matching : w.map (fun x => (sampleVal x : ℚ)) = (t.map ((↑) : Int → ℚ)).map fun v => a * v + o)
    (one : (1 : Int) ∈ t) (minusOne : (-1 : Int) ∈ t) : scoreOf w t = ⟨ratSign a, 1⟩ := by
  have len : w.length = t.length := by simpa using congrArg List.length matching
  have both : ∃ x ∈ t, ∃ y ∈ t, x ≠ y := ⟨1, one, -1, minusOne, by decide⟩
  have least := two_le_length_of_ne t both
  have spreadT : (t.length : Int) - 1 ≤ scoreAt t := scoreAt_eq_coSpread t units ▸ length_sub_one_le_coSpread t both
  have spreadS := length_sub_one_le_scoreAs w (exists_ne_of_affine w t a o scale matching one minusOne)
  obtain ⟨cross, spreadW⟩ := scoreX_scoreAs_of_affine w t a o units matching
  have positive : (0 : ℚ) < scoreAt t := by
    have : 0 < scoreAt t := by omega
    exact_mod_cast this
  have sign : (scoreX w t).sign = ratSign a := sign_eq_ratSign _ _ a positive (by rw [cross, mul_comm])
  rw [← integerFormEqualsScore w t len, scoreIntForm, sign, floored_eq_self _ _ (len ▸ least) (len ▸ most) spreadS,
    floored_eq_self _ _ least most spreadT, cross, spreadW]
  congr 1
  field_simp

/-- Settles O35: the score of a matching window has the sign of the scale. -/
theorem matchingWindowScoresOne : Obligations.MatchingWindowScoresOne := by
  intro c k w a o most matching one minusOne
  rw [bind_pure_comp, List.map_eq_map] at matching
  have score (scale : a ≠ 0) :=
    scoreOf_affine w _ a o scale (by rwa [c.tv_length k]) (c.tv_sq k) matching one minusOne
  constructor
  · intro positive
    rw [score positive.ne', ratSign, if_pos positive]
  · intro negative
    rw [score negative.ne, ratSign, if_neg (not_lt.mpr negative.le), if_pos negative]

/-! ### The comparisons of the tracker -/

/-- A score is above the root of a rational exactly when its signed square is above the rational (R157). -/
theorem Score.SignOk.lt_signedSq_iff {v : Score} (h : v.SignOk) (nonneg : 0 ≤ v.sq) (r : ℚ) (hr : 0 ≤ r) :
    r < v.signedSq ↔ Real.sqrt (r : ℝ) < v.real := by
  have root : Real.sqrt (r : ℝ) < Real.sqrt (v.sq : ℝ) ↔ r < v.sq := by
    rw [Real.sqrt_lt_sqrt_iff (mod_cast hr)]
    exact_mod_cast Iff.rfl
  have rootNonneg := Real.sqrt_nonneg (r : ℝ)
  have squareNonneg := Real.sqrt_nonneg (v.sq : ℝ)
  unfold Score.signedSq Score.real
  rcases h with h | h | h <;> rw [h] <;> push_cast
  · rw [one_mul, one_mul, root]
  · constructor <;> intro <;> linarith
  · constructor <;> intro <;> linarith

theorem ratSign_pos_iff (x : ℚ) : ratSign x > 0 ↔ 0 < x := by
  rcases ratSign_cases x with ⟨sign, e⟩ | ⟨sign, e⟩ | ⟨sign, e⟩ <;> rw [e]
  · exact iff_of_true one_pos sign
  · exact iff_of_false (by decide) sign.not_gt
  · exact iff_of_false (by decide) sign.not_gt

theorem ratSign_neg_iff (x : ℚ) : ratSign x < 0 ↔ x < 0 := by
  rcases ratSign_cases x with ⟨sign, e⟩ | ⟨sign, e⟩ | ⟨sign, e⟩ <;> rw [e]
  · exact iff_of_false (by decide) sign.not_gt
  · exact iff_of_true (by decide) sign
  · exact iff_of_false (by decide) sign.not_lt

/-- The sign of the pair is that of the real SCORE, whose denominator is positive (R150, R157). -/
theorem scoreOf_sign_iff (w : List Byte) (t : List Int) :
    ((scoreOf w t).sign > 0 ↔ 0 < realScore w t) ∧ ((scoreOf w t).sign < 0 ↔ realScore w t < 0) := by
  have positive : 0 < Real.sqrt (windowSdSq w : ℝ) * Real.sqrt (templateSdSq t : ℝ) :=
    mul_pos (Real.sqrt_pos.mpr (mod_cast windowSdSq_pos w)) (Real.sqrt_pos.mpr (mod_cast templateSdSq_pos t))
  rw [realScore_eq, div_pos_iff_of_pos_right positive, div_lt_iff₀ positive, zero_mul, Rat.cast_pos, Rat.cast_lt_zero]
  exact ⟨ratSign_pos_iff _, ratSign_neg_iff _⟩

/-- The root of the threshold's square is the threshold (R152, R156). -/
theorem sqrt_thres_sq : Real.sqrt ((thres ^ 2 : ℚ) : ℝ) = 4 / 5 := by
  rw [Rat.cast_pow, Real.sqrt_sq (by norm_num [thres])]
  norm_num [thres]

/-- Settles O38: each comparison of squares is that of the roots, and the sign is SCORE's. -/
theorem trackerComparisonsAreExact : Obligations.TrackerComparisonsAreExact := by
  intro s best
  have compare (r : ℚ) (hr : 0 ≤ r) := s.corr_signOk.lt_signedSq_iff s.corr_sq_nonneg r hr
  refine ⟨?_, compare _ best, ?_, scoreOf_sign_iff⟩
  · rw [← sqrt_thres_sq]
    exact compare _ (sq_nonneg _)
  · rw [Real.sqrt_pos, Rat.cast_pos]

end Sys2Proof.Machine
end

section
/-! PROOFS. The tracker over one PUSH and over a run (43_tracker.md). -/

namespace Sys2Proof

/-- The gate of a field header of a legal configuration ends below the saturation value (R292 condition 6). -/
theorem Config.Legal.off_add_spb_lt {c : Config} (legal : c.Legal) {k : HeaderIndex} (field : k ≠ 0) :
    c.off k + c.spb < posMax := by
  obtain ⟨-, -, -, -, -, -, room⟩ := legal
  exact room k field

namespace Machine

/-- Settles O41: in both cases the tracker answers the state it found, and the emitter then advances the bit clock. -/
theorem trackerSkips : Obligations.TrackerSkips := by
  intro s x accepting skips
  have unchanged : (s.afterWrite x).trackStep = s.afterWrite x := by
    rcases skips with ⟨gated, below, searching⟩ | early
    · exact (s.afterWrite x).trackStep_of_searching gated below (not_lt.mpr searching.le)
    · exact (s.afterWrite x).trackStep_of_early early
  refine ⟨_, exec_push_of_trackStep s _ x accepting unchanged, ?_, ?_, ?_, ?_, ?_, ?_⟩
  · simp
  · simp
  · simp
  · simp
  · simp
  · exact State.emitStep_bitStart_eq _

/-- Settles O43: the fields after the commit of a field header. -/
theorem fieldHeaderCommit : Obligations.FieldHeaderCommit := by
  intro s x accepting field gated below tracking
  refine ⟨_, exec_push_of_passed s x accepting gated below tracking, ?_, ?_, ?_, ?_, ?_⟩
  · rw [State.emitStep_hdr, State.commit_hdr]
    exact Fin.val_add s.hdr 1
  · simp
  · simp [State.commit_pos, field]
  · simp
  · simp [State.commit_polarity, field]

/-- A tracker step keeps the header and does not lower the best, or goes to the next header, searching (R175,
R184). -/
theorem State.trackStep_hdr_maxCorr (s : State) :
    (s.trackStep.hdr = s.hdr ∧ s.maxCorr ≤ s.trackStep.maxCorr) ∨
    (s.trackStep.hdr = s.hdr + 1 ∧ s.trackStep.maxCorr = 0) := by
  rcases s.trackStep_outcomes with ⟨above, better, e⟩ | e | ⟨-, -, -, e⟩ | ⟨-, e⟩ <;> rw [e]
  · rw [s.corr_signedSq_of_aboveThres above] at better
    exact .inl ⟨rfl, better.le⟩
  · exact .inl ⟨rfl, le_rfl⟩
  · exact .inr ⟨s.commit_hdr, s.commit_maxCorr⟩
  · exact .inr ⟨rfl, rfl⟩

/-- Settles O46: the emitter writes neither the header nor the best. -/
theorem headerMovesByOneAndBestNeverDecreases : Obligations.HeaderMovesByOneAndBestNeverDecreases := by
  intro s t x run
  obtain ⟨-, rfl⟩ := execPush_next s t x run
  rw [State.emitStep_hdr, State.emitStep_maxCorr]
  exact (s.afterWrite x).trackStep_hdr_maxCorr

/-! ### The end of a field header's slot -/

/-- A PUSH that keeps a field header keeps the counted position (R23, R180). -/
theorem exec_push_pos_of_field (s t : State) (x : Byte) (run : exec (.push x) s = .next t) (field : s.hdr ≠ 0) :
    t.pos = min (s.pos + 1) posMax := by
  obtain ⟨pos, -⟩ := onlyMainCommitClearsPosAndWritesPolarity s t x run
  rwa [if_neg fun h => field h.1] at pos

/-- A PUSH that takes the position past `OFF + SPB` leaves the field header (R182). -/
theorem exec_push_hdr_of_past (s t : State) (x : Byte) (run : exec (.push x) s = .next t) (field : s.hdr ≠ 0)
    (past : s.cfg.off s.hdr + s.cfg.spb < (min (s.pos + 1) posMax : Nat)) : t.hdr = s.hdr + 1 := by
  obtain ⟨-, rfl⟩ := execPush_next s t x run
  rw [State.emitStep_hdr, (s.afterWrite x).trackStep_of_forceDue ⟨field, past⟩]
  rfl

/-- Settles O47, by induction on the run: a PUSH that keeps the header counts the position, and one that takes it past
the gate, which a legal configuration leaves room for, does not keep the header. -/
theorem fieldHeaderSlotEnds : Obligations.FieldHeaderSlotEnds := by
  intro s t xs legal field nonempty far run
  induction run with
  | nil s => simp at nonempty
  | cons s u t x xs first rest ih =>
    by_cases moved : u.hdr = s.hdr + 1
    · exact ⟨[x], u, by simp, .cons s u u x [] first (.nil u), moved⟩
    have kept : u.hdr = s.hdr :=
      ((headerMovesByOneAndBestNeverDecreases s u x first).resolve_right fun h => moved h.1).1
    have cfg : u.cfg = s.cfg := exec_keeps_cfg _ s u first
    have pos : u.pos = min (s.pos + 1) posMax := exec_push_pos_of_field s u x first field
    have notPast := mt (exec_push_hdr_of_past s u x first field) moved
    have room : s.cfg.off s.hdr + s.cfg.spb < posMax := legal.off_add_spb_lt field
    rw [List.length_cons] at far
    generalize posMax = limit at pos notPast room
    have more : 1 ≤ xs.length := by omega
    obtain ⟨ys, v, isPrefix, run, next⟩ :=
      ih (cfg ▸ legal) (kept ▸ field) more (by rw [cfg, kept, pos]; omega)
    exact ⟨x :: ys, v, by simpa using isPrefix, .cons s u v x ys first run, by rw [next, kept]⟩

end Machine
end Sys2Proof
end

section
/-! PROOFS. The emitter over one PUSH and over a run (44_emitter.md): the emitted byte, the steady state, the first
unit, and silence. -/

namespace Sys2Proof

/-- The bit period of a legal configuration is small beside the ring: a header has at least 8 bits (R292). -/
theorem Config.Legal.spb_lt {c : Config} (legal : c.Legal) :
    1 ≤ c.spb ∧ 8 * c.spb ≤ c.len 0 ∧ 2 * c.len 0 < c.ringSize := by
  obtain ⟨-, spb, ⟨-, bytes⟩, -, main, -⟩ := legal
  have oneByte : 8 * 1 * c.spb ≤ c.len 0 := Nat.mul_le_mul_right _ (Nat.mul_le_mul_left 8 (bytes 0))
  exact ⟨spb, by omega, main⟩

namespace Machine

/-! ### The emitted byte -/

/-- The cells of the bit period sum to at most 255 each (R79). -/
theorem State.sum_periodCells_le (s : State) : (s.periodCells.map BitVec.toNat).sum ≤ 255 * s.cfg.spb := by
  have each : ∀ v ∈ s.periodCells.map BitVec.toNat, v ≤ 255 := by
    intro v member
    obtain ⟨x, -, rfl⟩ := List.mem_map.mp member
    exact Nat.le_of_lt_succ x.isLt
  have total := List.sum_le_card_nsmul _ _ each
  simpa [mul_comm] using total

/-- The average of the bit period is a byte (R212). -/
theorem State.periodAvg_le (s : State) (spb : 1 ≤ s.cfg.spb) : s.periodAvg ≤ 255 := by
  have sum := s.sum_periodCells_le
  refine Nat.le_of_lt_succ (Nat.div_lt_of_lt_mul ?_)
  omega

/-- The emitted byte as a number (R213). -/
theorem State.unitByte_toNat (s : State) (avg : s.periodAvg ≤ 255) :
    s.unitByte.toNat = if s.polarity = .minus then 255 - s.periodAvg else s.periodAvg := by
  unfold State.unitByte
  cases s.polarity
  · exact Nat.mod_eq_of_lt (by omega)
  · exact Nat.mod_eq_of_lt (by omega)

/-- Settles O51: the two inequalities of the division, and that the sum is one of bytes. -/
theorem emittedByteIsTheRoundedAverage : Obligations.EmittedByteIsTheRoundedAverage := by
  intro s spb sum
  have avg := s.periodAvg_le spb
  exact ⟨Nat.mul_div_le _ _, Nat.lt_mul_div_succ _ (by omega), avg, s.unitByte_toNat avg⟩

/-! ### The steady state -/

/-- The signed distance stands for its argument mod B (R101). -/
theorem sgnB_modEq (n : Nat) (r : Int) : sgnB n r ≡ r [ZMOD n] := Int.modEq_iff_dvd.mpr (dvd_sub_sgnB n r)

/-- The write moves the head, and with it every distance, by one (R100, R108). -/
theorem State.afterWrite_dist (s : State) (x : Byte) (b : Int) (pos : 0 < s.cfg.ringSize) :
    (s.afterWrite x).dist b = sgnB s.cfg.ringSize (s.dist b + 1) := by
  have head := ((ringIdx_modEq s.cfg.ringSize ((s.p : Int) + 1) pos).sub_right 1).sub_right b
  have before : s.dist b + 1 ≡ (s.p : Int) - 1 - b + 1 [ZMOD s.cfg.ringSize] := (sgnB_modEq _ _).add_right 1
  rw [show (s.p : Int) - 1 - b + 1 = s.p + 1 - 1 - b by ring] at before
  exact sgnB_congr _ _ _ (head.trans before.symm)

/-- An index `n` further on is `n` less behind the head (R108). -/
theorem State.dist_idx_add (s : State) (b : Int) (n : Nat) (pos : 0 < s.cfg.ringSize) :
    s.dist (s.idx (b + n)) = sgnB s.cfg.ringSize (s.dist b - n) := by
  have index := (ringIdx_modEq s.cfg.ringSize (b + n) pos).sub_left ((s.p : Int) - 1)
  have before : s.dist b - n ≡ (s.p : Int) - 1 - b - n [ZMOD s.cfg.ringSize] := (sgnB_modEq _ _).sub_right n
  rw [show (s.p : Int) - 1 - b - n = s.p - 1 - (b + n) by ring] at before
  exact sgnB_congr _ _ _ (index.trans before.symm)

/-- Where the tracker does not commit, it leaves the bit clock (R185). -/
theorem State.trackStep_keeps_bitStart (s : State)
    (noCommit : ¬ (gate s.cfg s.hdr s.pos ∧ ¬ s.corr.aboveThres ∧ s.tracking)) :
    s.trackStep.bitStart = s.bitStart := by
  rcases s.trackStep_outcomes with ⟨-, -, e⟩ | e | ⟨gated, below, tracking, -⟩ | ⟨-, e⟩
  · rw [e, State.recordBest_bitStart]
  · rw [e]
  · exact absurd ⟨gated, below, tracking⟩ noCommit
  · rw [e, State.advanceHdr_bitStart]

/-- Where the tracker does not commit, it leaves the distance of the bit clock. -/
theorem State.trackStep_keeps_dist (s : State)
    (noCommit : ¬ (gate s.cfg s.hdr s.pos ∧ ¬ s.corr.aboveThres ∧ s.tracking)) :
    s.trackStep.dist s.trackStep.bitStart = s.dist s.bitStart := by
  rw [s.trackStep_keeps_bitStart noCommit, State.dist, State.dist, State.trackStep_cfg, State.trackStep_p]

/-- A unit is due at distance 0, and puts the bit clock one period before the head; the distances below 0 up to a
period wait (R211, R214). -/
theorem State.emitStep_steady (s : State) (pos : 0 < s.cfg.ringSize) (small : 2 * s.cfg.spb < s.cfg.ringSize)
    (atMost : s.dist s.bitStart ≤ 0) :
    s.emitStep.dist s.emitStep.bitStart =
      (if s.dist s.bitStart = 0 then -(s.cfg.spb : Int) else s.dist s.bitStart) ∧
    s.emitStep.out.length = s.out.length + if s.dist s.bitStart = 0 then s.ospb else 0 := by
  rcases s.emitStep_cases with ⟨due, e⟩ | ⟨notDue, e⟩ <;> rw [e]
  · have zero : s.dist s.bitStart = 0 := le_antisymm atMost due
    have moved : s.dist (s.idx ((s.bitStart : Int) + s.cfg.spb)) = -(s.cfg.spb : Int) := by
      rw [s.dist_idx_add _ _ pos, zero, sgnB_of_range _ _ (by omega) (by omega), zero_sub]
    rw [if_pos zero, if_pos zero, State.emitUnit_dist, State.emitUnit_bitStart, State.emitUnit_out]
    exact ⟨moved, by simp⟩
  · have notZero : s.dist s.bitStart ≠ 0 := fun zero => notDue zero.ge
    rw [if_neg notZero, if_neg notZero]
    exact ⟨rfl, rfl⟩

/-- Settles O52: the write moves the distance by one, the tracker leaves it, and the emitter takes 0 to `-SPB`. -/
theorem emitterSteadyState : Obligations.EmitterSteadyState := by
  intro s t x ranges run noCommit atLeast atMost
  obtain ⟨-, rfl⟩ := execPush_next s t x run
  obtain ⟨spb, bits, main⟩ := ranges.legal.spb_lt
  have pos := ranges.ringSize_pos
  have moved : (s.afterWrite x).trackStep.dist (s.afterWrite x).trackStep.bitStart = s.dist s.bitStart + 1 := by
    rw [(s.afterWrite x).trackStep_keeps_dist noCommit, State.afterWrite_bitStart, s.afterWrite_dist x _ pos]
    exact sgnB_of_range _ _ (by omega) (by omega)
  have steady := (s.afterWrite x).trackStep.emitStep_steady (by simpa using pos) (by simp; omega) (by omega)
  rw [moved, State.trackStep_cfg, State.trackStep_out, State.ospb, State.trackStep_ovs, State.trackStep_cfg] at steady
  obtain ⟨distance, output⟩ := steady
  by_cases last : s.dist s.bitStart = -1
  · rw [if_pos (by omega)] at distance output
    rw [if_pos last, if_pos last, distance, output]
    exact ⟨rfl, le_rfl, by simp; omega, rfl⟩
  · rw [if_neg (by omega)] at distance output
    rw [if_neg last, if_neg last, distance, output]
    exact ⟨rfl, by omega, by omega, rfl⟩

/-! ### The first unit -/

/-- A block that has taken fewer than `L[0]` samples since reset, all before the gate of header 0. -/
structure State.Filling (s : State) : Prop where
  legal    : s.cfg.Legal
  early    : (s.cfg.len 0 : Int) ≤ s.cfg.off 0 - s.cfg.spb
  head     : s.p < s.cfg.len 0
  pos      : s.pos ≤ s.p
  hdr      : s.hdr = 0
  maxCorr  : s.maxCorr = 0
  bitStart : s.bitStart + 1 = s.cfg.len 0
  ovs      : s.ovs = false
  out      : s.out = []

theorem State.resetWith_filling (c : Config) (legal : c.Legal) (early : (c.len 0 : Int) ≤ c.off 0 - c.spb) :
    (State.resetWith c).Filling := by
  obtain ⟨spb, bits, main⟩ := legal.spb_lt
  have bitStart : ringIdx c.ringSize ((c.len 0 : Int) - 1) = c.len 0 - 1 := by
    rw [← Nat.cast_pred (by omega), ringIdx_of_lt _ _ (by omega)]
  exact {
    legal := legal
    early := early
    head := by simp; omega
    pos := le_rfl
    hdr := rfl
    maxCorr := rfl
    bitStart := by
      rw [State.resetWith_bitStart, bitStart, State.resetWith_cfg]
      omega
    ovs := rfl
    out := rfl }

/-- While the block fills, the write moves the head by one without wrapping, and the bit clock's origin lies as far
ahead as samples are missing (R100, R108). -/
theorem State.Filling.afterWrite {s : State} (h : s.Filling) (x : Byte) :
    (s.afterWrite x).p = s.p + 1 ∧ (s.afterWrite x).dist s.bitStart = (s.p : Int) - s.bitStart := by
  obtain ⟨spb, bits, main⟩ := h.legal.spb_lt
  have head := h.head
  have origin := h.bitStart
  have p : (s.afterWrite x).p = s.p + 1 := by
    rw [State.afterWrite_p, ringIdx_succ _ _ (by omega), if_neg (by omega)]
  refine ⟨p, ?_⟩
  rw [State.dist, p, State.afterWrite_cfg]
  push_cast
  rw [add_sub_cancel_right]
  exact sgnB_of_range _ _ (by omega) (by omega)

/-- Before sample number `L[0]`, a PUSH leaves the block filling (R183, R211). -/
theorem State.Filling.push {s t : State} {x : Byte} (h : s.Filling) (run : exec (.push x) s = .next t)
    (more : s.p + 1 < s.cfg.len 0) : t.Filling ∧ t.p = s.p + 1 := by
  obtain ⟨-, rfl⟩ := execPush_next s t x run
  obtain ⟨p, dist⟩ := h.afterWrite x
  have origin := h.bitStart
  have counted : (s.afterWrite x).pos ≤ s.p + 1 := (min_le_left _ _).trans (Nat.succ_le_succ h.pos)
  have early : ((s.afterWrite x).pos : Int) <
      (s.afterWrite x).cfg.off (s.afterWrite x).hdr - (s.afterWrite x).cfg.spb := by
    have gate := h.early
    rw [State.afterWrite_hdr, h.hdr, State.afterWrite_cfg]
    omega
  have notDue : ¬ (s.afterWrite x).due := by
    rw [State.due, State.afterWrite_bitStart, dist]
    omega
  rw [State.trackStep_of_early _ early, State.emitStep, if_neg notDue]
  exact ⟨{ h with head := p.trans_lt more, pos := counted.trans_eq p.symm }, p⟩

/-- Sample number `L[0]` makes the first unit due, whatever the tracker records (R211). -/
theorem State.Filling.push_last {s t : State} {x : Byte} (h : s.Filling) (run : exec (.push x) s = .next t)
    (last : s.p + 1 = s.cfg.len 0) : t.out.length = 1 := by
  obtain ⟨-, rfl⟩ := execPush_next s t x run
  have origin := h.bitStart
  have notTracking : ¬ (s.afterWrite x).tracking := fun tracking => absurd h.maxCorr tracking.ne'
  have due : (s.afterWrite x).trackStep.due := by
    rw [State.due, State.trackStep_keeps_dist _ fun commits => notTracking commits.2.2, State.afterWrite_bitStart,
      (h.afterWrite x).2]
    omega
  rw [State.emitStep_out, if_pos due]
  simp [State.ospb, h.ovs, h.out]

/-- A run that fills the block emits nothing before sample number `L[0]`, and one unit with it. -/
theorem State.Filling.run {s t : State} {xs : List Byte} (h : s.Filling) (run : PushRun s xs t) :
    (s.p + xs.length < s.cfg.len 0 → t.out = []) ∧ (s.p + xs.length = s.cfg.len 0 → t.out.length = 1) := by
  induction run with
  | nil s => exact ⟨fun _ => h.out, fun full => absurd full h.head.ne⟩
  | cons s u t x xs first rest ih =>
    rw [List.length_cons]
    by_cases last : s.p + 1 = s.cfg.len 0
    · refine ⟨fun more => by omega, fun full => ?_⟩
      obtain rfl := List.eq_nil_of_length_eq_zero (show xs.length = 0 by omega)
      cases rest
      exact h.push_last first last
    · obtain ⟨filling, p⟩ := h.push first (by have := h.head; omega)
      have later := ih filling
      rw [p, exec_keeps_cfg _ s u first, add_assoc, add_comm 1] at later
      exact later

/-- Settles O53: reset leaves the block filling, at sample number 0. -/
theorem firstUnitAtPushL0 : Obligations.FirstUnitAtPushL0 := by
  intro c t xs legal early run
  have whole := (State.resetWith_filling c legal early).run run
  rwa [State.resetWith_p, State.resetWith_cfg, zero_add] at whole

/-! ### Silence -/

/-- A block that has taken only samples at the carrier midpoint since reset. -/
structure State.Silent (s : State) : Prop where
  spb      : 1 ≤ s.cfg.spb
  buf      : s.buf = []
  hdr      : s.hdr = 0
  maxCorr  : s.maxCorr = 0
  polarity : s.polarity = .plus
  out      : ∀ b ∈ s.out, b = 128

theorem State.resetWith_silent (c : Config) (spb : 1 ≤ c.spb) : (State.resetWith c).Silent :=
  { spb := spb, buf := rfl, hdr := rfl, maxCorr := rfl, polarity := rfl, out := nofun }

/-- In a silent block every cell reads as the midpoint. -/
theorem State.Silent.ringRead {s : State} (h : s.Silent) (i : Int) : s.ringRead i = 128 := by
  rw [State.ringRead, h.buf]
  rfl

/-- The write of the midpoint leaves the ring as it is (R21). -/
theorem State.Silent.afterWrite {s : State} (h : s.Silent) : (s.afterWrite 128).Silent :=
  { h with buf := by rw [State.afterWrite_buf, h.buf]; rfl }

/-- Every window of a silent block scores 0 (R154). -/
theorem State.Silent.score {s : State} (h : s.Silent) (start : Int) (k : HeaderIndex) : s.score start k = ⟨0, 0⟩ := by
  have window : s.win start (s.cfg.len k) = List.replicate (s.cfg.tv k).length 128 := by
    refine List.eq_replicate_iff.mpr ⟨by simp, fun v member => ?_⟩
    obtain ⟨i, -, rfl⟩ := List.mem_map.mp member
    exact h.ringRead _
  rw [State.score, window]
  exact constantWindowOrHeaderScoresZero.1 128 _

/-- In a silent block the tracker changes nothing: it records no best and has none to commit. -/
theorem State.Silent.trackStep {s : State} (h : s.Silent) : s.trackStep = s := by
  have corr : s.corr.signedSq = 0 := by
    simp [s.corr_main h.hdr, h.score, Score.signedSq, Score.abs]
  rcases s.trackStep_outcomes with ⟨above, -, -⟩ | e | ⟨-, -, tracking, -⟩ | ⟨field, -⟩
  · exact absurd corr (s.corr.signedSq_pos_of_aboveThres above).ne'
  · exact e
  · exact absurd h.maxCorr tracking.ne'
  · exact absurd h.hdr field

/-- A silent block emits the midpoint (R212, R213). -/
theorem State.Silent.unitByte {s : State} (h : s.Silent) : s.unitByte = 128 := by
  have cells : s.periodCells.map BitVec.toNat = List.replicate s.cfg.spb 128 := by
    refine List.eq_replicate_iff.mpr ⟨by simp, fun v member => ?_⟩
    rw [s.periodCells_toNat] at member
    obtain ⟨j, -, rfl⟩ := List.mem_map.mp member
    rw [h.ringRead]
    rfl
  have avg : s.periodAvg = 128 := by
    have spb := h.spb
    rw [State.periodAvg, cells, List.sum_replicate, roundedAvg, smul_eq_mul]
    refine Nat.div_eq_of_lt_le ?_ ?_ <;> omega
  rw [State.unitByte, h.polarity, avg]
  rfl

theorem State.Silent.emitStep {s : State} (h : s.Silent) : s.emitStep.Silent := by
  rcases s.emitStep_cases with ⟨-, e⟩ | ⟨-, e⟩ <;> rw [e]
  · refine { h with out := fun b member => ?_ }
    rw [State.emitUnit_out, h.unitByte] at member
    rcases List.mem_append.mp member with old | new
    · exact h.out b old
    · exact List.eq_of_mem_replicate new
  · exact h

/-- A PUSH of the midpoint keeps a block silent. -/
theorem State.Silent.push {s t : State} (h : s.Silent) (run : exec (.push 128) s = .next t) : t.Silent := by
  obtain ⟨-, rfl⟩ := execPush_next s t 128 run
  rw [h.afterWrite.trackStep]
  exact h.afterWrite.emitStep

theorem State.Silent.run {s t : State} {n : Nat} (h : s.Silent) (run : PushRun s (List.replicate n 128) t) :
    t.Silent := by
  induction n generalizing s with
  | zero =>
    cases run
    exact h
  | succ n ih =>
    rw [List.replicate_succ] at run
    cases run with
    | cons s u t x xs first rest => exact ih (h.push first) rest

/-- Settles O54: reset leaves a silent block, and silence keeps it so. -/
theorem silenceNeverLocks : Obligations.SilenceNeverLocks := by
  intro c t n legal run
  have silent := (State.resetWith_silent c legal.spb_lt.1).run run
  exact ⟨silent.hdr, silent.maxCorr, silent.polarity, fun i => by rw [silent.buf]; rfl, silent.out⟩

end Machine
end Sys2Proof
end
